-- ==== Sys2Proof/Word.lean ====
section
/-! DEFINITION. The word types of the K6 RISC86 Op level (00_scope.md R8, R11). -/

namespace Sys2Proof

/-- A byte of memory (20_memory.md R131). -/
abbrev Byte := BitVec 8

/-- A 32-bit general register, special register or address (00_scope.md R8). -/
abbrev Word := BitVec 32

/-- A 64-bit MMX/3D register (10_state.md R39). -/
abbrev DWord := BitVec 64

/-- An Op: 38 bits, bit 37 the most significant (30_encoding.md R160). -/
abbrev OpWord := BitVec 38

/-- A 5-bit register number (10_state.md R31); which column of R31 reads it is the Op's matter. -/
abbrev RegNum := BitVec 5

/-- A 4-bit status-modification field Ext[3:0] (30_encoding.md R187). -/
abbrev Ext4 := BitVec 4

end Sys2Proof
end

