-- ==== Sys2Proof/Config.lean ====
section
/-! DEFINITION. The free values, the environment record `Env` (00_scope.md R9) and the open parameters
(00_scope.md R10, 92_eei_decisions.md). `Env` and the parameters are plain data and stand in `State`, so that a
statement about every state holds for every choice of them (log 5, 7). -/

namespace Sys2Proof

namespace Config

/-- `draw(N)` of 00_scope.md R13: the `n`-th free value of a run. It has no body, so nothing can be proved of it. A
narrower draw is its low bits. DESIGN CHOICE, log 9: the free value of a step is this constant at the step's counter. -/
opaque freeWord : Nat → Word

end Config

/-- An operand size in bytes after environment substitution: 1, 2 or 4 (41_regops.md R260). -/
inductive Size where
  | one | two | four
  deriving DecidableEq, Repr

/-- An operand size in bytes. -/
def Size.bytes : Size → Nat
  | .one => 1
  | .two => 2
  | .four => 4

/-- The operand width `w = 8*sz` in bits (41_regops.md R260). -/
abbrev Size.bits : Size → Nat
  | .one => 8
  | .two => 16
  | .four => 32

/-- A size the environment can supply: 2 or 4 bytes (00_scope.md R9). -/
inductive EnvSize where
  | two | four
  deriving DecidableEq, Repr

/-- The environment size as an operand size. -/
def EnvSize.size : EnvSize → Size
  | .two => .two
  | .four => .four

/-- The six x86 architectural segment registers, the values of `Env.OS` (00_scope.md R9). -/
inductive ArchSeg where
  | es | cs | ss | ds | fs | gs
  deriving DecidableEq, Repr

/-- A segment after substitution (40_ldstops.md R220): the segment registers of 10_state.md R46, with TS(1000) and
TS(1001) apart, the linear segment LS and the special memory MS. -/
inductive Seg where
  | es | cs | ss | ds | fs | gs | hs | ts0 | ts1 | ls | ms
  deriving DecidableEq, Repr

/-- An architectural segment register as a segment. -/
def ArchSeg.seg : ArchSeg → Seg
  | .es => .es
  | .cs => .cs
  | .ss => .ss
  | .ds => .ds
  | .fs => .fs
  | .gs => .gs

/-- What an access is checked for (20_memory.md R138, R142). -/
inductive AccessKind where
  | read | write | readwrite | execute
  deriving DecidableEq, Repr

/-- The status flags (10_state.md R41; AF by 41_regops.md R269). -/
inductive FlagName where
  | of | cf | zf | sf | pf | af | ecf | ezf
  deriving DecidableEq, Repr

/-- The environment record `Env` of 00_scope.md R9, constant for a run (D4). -/
structure Env where
  /-- Effective address size. -/
  asize : EnvSize
  /-- Stack size. -/
  ssize : EnvSize
  /-- Data size. -/
  dsize : EnvSize
  /-- Floating-point data size; OPEN, never read (D4). DESIGN CHOICE, log 6: a count of bytes. -/
  fpDSize : Nat
  /-- The x86 register number `reg` stands for. -/
  reg : BitVec 3
  /-- The x86 register number `regm` stands for. -/
  regm : BitVec 3
  /-- The effective operand segment register OS. -/
  os : ArchSeg
  /-- The 32-bit displacement of the decoder displacement bus. -/
  disp32 : Word
  /-- SR1.SubOpcd of the environment; no Op reads it, R fields are free values (log 16). -/
  subOpcd : BitVec 3
  /-- SR1.OCPL of the environment (log 16). -/
  ocpl : BitVec 2
  /-- SR25.PrfxCnt of the environment (log 16). -/
  prfxCnt : BitVec 4
  /-- SR0.PMSP of the environment (log 16). -/
  pmsp : Bool
  /-- The floating-point Op of FPOPE; OPEN, never read (D4). DESIGN CHOICE, log 6: a number. -/
  fpOp : Nat
  deriving DecidableEq, Repr

/-- `misaligned_policy` (20_memory.md R144, D6). -/
inductive MisalignedPolicy where
  | split | refuse
  deriving DecidableEq, Repr

/-- `regop_type0_policy` (41_regops.md R267, D14). -/
inductive Type0Policy where
  | strict | ignore
  deriving DecidableEq, Repr

/-- `regop_fn` (D15): `none` refuses the arithmetic RegOps without a stated function, `free` gives each of their
executions an unconstrained result. -/
inductive RegopFn where
  | none | free
  deriving DecidableEq, Repr

/-- `ext_groups` (10_state.md R42, D10): the flags each of the four Ext bits selects. -/
structure ExtGroups where
  /-- Flags of Ext[3]. -/
  g3 : List FlagName
  /-- Flags of Ext[2]. -/
  g2 : List FlagName
  /-- Flags of Ext[1]. -/
  g1 : List FlagName
  /-- Flags of Ext[0]. -/
  g0 : List FlagName
  deriving DecidableEq, Repr

/-- One refusal of `SegCheck` (20_memory.md R138): an access of `n` bytes for `kind` in `seg` at an offset from `lo`
to `hi`. DESIGN CHOICE, log 12: `SegCheck` is false exactly on the listed accesses. -/
structure SegDeny where
  /-- The segment. -/
  seg : Seg
  /-- The lowest offset denied. -/
  lo : Word
  /-- The highest offset denied. -/
  hi : Word
  /-- The number of bytes of the access. -/
  n : Nat
  /-- What the access is checked for. -/
  kind : AccessKind
  deriving DecidableEq, Repr

/-- One entry of `Translate` (20_memory.md R139): linear addresses from `lo` to `hi`, asked for `kind`, go to the
physical address `target + (linear - lo)`, or to a page fault where `target` is `none`. DESIGN CHOICE, log 13: the first
entry that holds the address decides and an address in no entry translates to itself. -/
structure PageEntry where
  /-- The lowest linear address. -/
  lo : Word
  /-- The highest linear address. -/
  hi : Word
  /-- What the access is checked for. -/
  kind : AccessKind
  /-- The physical address of `lo`, or `none` for a page fault. -/
  target : Option Word
  deriving DecidableEq, Repr

/-- The open parameters of 00_scope.md R10. `SegBase` is the content of the segment registers (log 11). -/
structure Params where
  /-- `misaligned_policy` (D6). -/
  misaligned : MisalignedPolicy
  /-- `cc0_negates` (D9). -/
  cc0Negates : Bool
  /-- `ext_groups` (D10). -/
  extGroups : ExtGroups
  /-- `imm8_signed` (D11). -/
  imm8Signed : Bool
  /-- `disp8_signed` (D12). -/
  disp8Signed : Bool
  /-- `imm17_signed` (D13). -/
  imm17Signed : Bool
  /-- `regop_type0_policy` (D14). -/
  type0 : Type0Policy
  /-- `regop_fn` (D15). -/
  regopFn : RegopFn
  /-- `SegCheck` (D18). -/
  segDeny : List SegDeny
  /-- `Translate` (D18). -/
  pages : List PageEntry
  deriving DecidableEq, Repr

namespace Config

/-- The default of `ext_groups` (10_state.md R42). -/
def defaultExtGroups : ExtGroups :=
  { g3 := [.ezf, .ecf], g2 := [.of], g1 := [.sf, .zf, .af, .pf], g0 := [.cf] }

/-- The defaults of the open parameters (92_eei_decisions.md, last list), but that `regop_fn` is taken, which D15
allows ("a model may take the function of a refused arithmetic RegOp as an uninterpreted parameter instead of
refusing"): DESIGN CHOICE, log 8. -/
def defaultParams : Params :=
  { misaligned := .split, cc0Negates := true, extGroups := defaultExtGroups, imm8Signed := true, disp8Signed := true,
    imm17Signed := true, type0 := .strict, regopFn := .free, segDeny := [], pages := [] }

/-- The environment of the reset state: the start state of 95_test_vectors.md section 2; the fields that section does
not name are 0. DESIGN CHOICE, log 5: the spec has no default, the host supplies `Env`. -/
def defaultEnv : Env :=
  { asize := .four, ssize := .four, dsize := .four, fpDSize := 0, reg := 0, regm := 0, os := .ds, disp32 := 0,
    subOpcd := 0, ocpl := 0, prfxCnt := 0, pmsp := false, fpOp := 0 }

end Config

end Sys2Proof
end

