-- ==== Sys2Proof/Syntax.lean ====
section
/-! DEFINITION. The abstract syntax of the Ops: one constructor per row of spec/opcode_table.json, with every field of
the row's encoding that the decoder does not ignore (30_encoding.md R170, R185, R195, R205, R212). -/

namespace Sys2Proof

/-- Index scale factor ISF[1:0] (30_encoding.md R173). -/
inductive Scale where
  | x1 | x2 | x4 | x8
  deriving DecidableEq, Repr

/-- Seg[3:0] as encoded (10_state.md R45), without the reserved code 0111; `os` keeps the two low bits of 11xx, whose
meaning the source does not give (R46). -/
inductive SegCode where
  | es | cs | ss | ds | fs | gs | hs | ts0 | ts1 | ls | ms
  | os (low : BitVec 2)
  deriving DecidableEq, Repr

/-- ASz[1:0] before environment substitution (30_encoding.md R176). -/
inductive AddrSize where
  | asize | ssize | four | dsize
  deriving DecidableEq, Repr

/-- DSz[1:0] before substitution, of the LdStOps of Table 2.25 (30_encoding.md R177) and of the SpecOps (R198). -/
inductive IntSize where
  | one | two | four | dsize
  deriving DecidableEq, Repr

/-- DSz[1:0] before substitution, of the LdStOps of Table 2.26 (30_encoding.md R178, 90_conflicts.md C4). -/
inductive FpSize where
  | fpDSize | two | four | eight
  deriving DecidableEq, Repr

/-- DSz[2:0] of a RegOp before substitution (30_encoding.md R190), without the unassigned codes 110 and 111. -/
inductive RegSize where
  | one | two | four | dsize | asize | ssize
  deriving DecidableEq, Repr

/-- The displacement of an LdStOp (30_encoding.md R174): `disp8` for LD = 0, `env32` for LD = 1. -/
inductive Disp where
  | disp8 (v : BitVec 8)
  | env32
  deriving DecidableEq, Repr

/-- The second operand of a RegOp (30_encoding.md R191): a register for I = 0, an 8-bit immediate for I = 1. -/
inductive Src2 where
  | reg (n : RegNum)
  | imm (v : BitVec 8)
  deriving DecidableEq, Repr

/-- The address fields of an LdStOp (30_encoding.md R170). -/
structure Address where
  /-- Index scale factor. -/
  isf : Scale
  /-- Segment code. -/
  seg : SegCode
  /-- Address calculation size. -/
  asz : AddrSize
  /-- Base register number, 4 bits (R171). -/
  base : BitVec 4
  /-- Displacement. -/
  disp : Disp
  /-- Index register number, 4 bits (R171). -/
  index : BitVec 4
  deriving DecidableEq, Repr

/-- The operand fields every RegOp has (30_encoding.md R185). -/
structure RegOperands where
  /-- Bit 25, "RX" (R188). -/
  rx : Bool
  /-- Data size. -/
  dsz : RegSize
  /-- Destination register number. -/
  dest : RegNum
  /-- First source register number. -/
  src1 : RegNum
  /-- Second operand. -/
  src2 : Src2
  deriving DecidableEq, Repr

/-- The fields of a SpecOp but Type (30_encoding.md R195). -/
structure SpecOperands where
  /-- Condition code. -/
  cc : BitVec 5
  /-- Data size. -/
  dsz : IntSize
  /-- Destination register number. -/
  dest : RegNum
  /-- 17-bit immediate. -/
  imm17 : BitVec 17
  deriving DecidableEq, Repr

/-- The Ops. Of a RegOp, `t0` is Type[0] where the row does not fix it (41_regops.md R267), `st` is `some Ext` when
SS = 1 and `none` when SS = 0 (30_encoding.md R187, R189), and `cc` or `k` is the 5-bit number Type[0] : Ext[3:0] with
the bit `ss` beside it. The rows of kind `alias` (R267, 30_encoding.md R215) have no encoding of their own: `inc`, `mov`
and `dec` are assembler names (log 26) and carry the operands of that name. The rows of kind `reserved` carry the bits
their row leaves free. -/
inductive Instr where
  /-- LD (R224). -/
  | ld (a : Address) (sz : IntSize) (data : RegNum)
  /-- LDF (R225). -/
  | ldf (a : Address) (sz : FpSize) (data : RegNum)
  /-- LDST (R226). -/
  | ldst (a : Address) (sz : IntSize) (data : RegNum)
  /-- LDM (R227). -/
  | ldm (a : Address) (sz : FpSize) (data : RegNum)
  /-- CDAF (R228). -/
  | cdaf (a : Address) (sz : FpSize) (data : RegNum)
  /-- LDPF (R229). -/
  | ldpf (a : Address) (sz : IntSize) (data : RegNum)
  /-- LDSTL (R230). -/
  | ldstl (a : Address) (sz : IntSize) (data : RegNum)
  /-- LDMSTL (R231). -/
  | ldmstl (a : Address) (sz : FpSize) (data : RegNum)
  /-- ST (R232). -/
  | st (a : Address) (sz : IntSize) (data : RegNum)
  /-- STF (R233). -/
  | stf (a : Address) (sz : FpSize) (data : RegNum)
  /-- STUPD (R234). -/
  | stupd (a : Address) (sz : IntSize) (data : RegNum)
  /-- STM (R235). -/
  | stm (a : Address) (sz : FpSize) (data : RegNum)
  /-- CDA (R236). -/
  | cda (a : Address) (sz : IntSize) (data : RegNum)
  /-- CIA (R237). -/
  | cia (a : Address) (sz : IntSize) (data : RegNum)
  /-- TIA (R238). -/
  | tia (a : Address) (sz : IntSize) (data : RegNum)
  /-- LEA (R239). -/
  | lea (a : Address) (sz : IntSize) (data : RegNum)
  /-- ADD (R270). -/
  | add (t0 : Bool) (st : Option Ext4) (o : RegOperands)
  /-- INC (R271). -/
  | inc (sz : RegSize) (dest : RegNum) (src1 : RegNum)
  /-- CADD (R272). -/
  | cadd (t0 : Bool) (st : Option Ext4) (o : RegOperands)
  /-- OR (R274). -/
  | or (t0 : Bool) (st : Option Ext4) (o : RegOperands)
  /-- MOV (R273). -/
  | mov (sz : RegSize) (dest : RegNum) (src2 : Src2)
  /-- EOR (R275). -/
  | eor (t0 : Bool) (st : Option Ext4) (o : RegOperands)
  /-- ADC (R276). -/
  | adc (t0 : Bool) (st : Option Ext4) (o : RegOperands)
  /-- SBB (R277). -/
  | sbb (t0 : Bool) (st : Option Ext4) (o : RegOperands)
  /-- AND (R278). -/
  | and (t0 : Bool) (st : Option Ext4) (o : RegOperands)
  /-- EAND (R279). -/
  | eand (t0 : Bool) (st : Option Ext4) (o : RegOperands)
  /-- BAND (R280). -/
  | band (t0 : Bool) (st : Option Ext4) (o : RegOperands)
  /-- SUB (R281). -/
  | sub (t0 : Bool) (st : Option Ext4) (o : RegOperands)
  /-- ESUB (R282). -/
  | esub (t0 : Bool) (st : Option Ext4) (o : RegOperands)
  /-- DEC (R283). -/
  | dec (sz : RegSize) (dest : RegNum) (src1 : RegNum)
  /-- CSUB (R284). -/
  | csub (t0 : Bool) (st : Option Ext4) (o : RegOperands)
  /-- XOR (R285). -/
  | xor (t0 : Bool) (st : Option Ext4) (o : RegOperands)
  /-- EXOR (R286). -/
  | exor (t0 : Bool) (st : Option Ext4) (o : RegOperands)
  /-- CMP (R287). -/
  | cmp (t0 : Bool) (st : Option Ext4) (o : RegOperands)
  /-- SLL (R288). -/
  | sll (t0 : Bool) (st : Option Ext4) (o : RegOperands)
  /-- BLL (R289). -/
  | bll (t0 : Bool) (st : Option Ext4) (o : RegOperands)
  /-- SRL (R290). -/
  | srl (t0 : Bool) (st : Option Ext4) (o : RegOperands)
  /-- SLC (R291). -/
  | slc (t0 : Bool) (st : Option Ext4) (o : RegOperands)
  /-- RLC (R292). -/
  | rlc (t0 : Bool) (st : Option Ext4) (o : RegOperands)
  /-- SRC (R293). -/
  | src (t0 : Bool) (st : Option Ext4) (o : RegOperands)
  /-- RRC (R294). -/
  | rrc (t0 : Bool) (st : Option Ext4) (o : RegOperands)
  /-- SLA (R295). -/
  | sla (t0 : Bool) (st : Option Ext4) (o : RegOperands)
  /-- SRA (R296). -/
  | sra (t0 : Bool) (st : Option Ext4) (o : RegOperands)
  /-- SLD (R297). -/
  | sld (t0 : Bool) (st : Option Ext4) (o : RegOperands)
  /-- RLD (R298). -/
  | rld (t0 : Bool) (st : Option Ext4) (o : RegOperands)
  /-- RLS (R299). -/
  | rls (t0 : Bool) (st : Option Ext4) (o : RegOperands)
  /-- SRD (R301). -/
  | srd (t0 : Bool) (st : Option Ext4) (o : RegOperands)
  /-- RRD (R302). -/
  | rrd (t0 : Bool) (st : Option Ext4) (o : RegOperands)
  /-- MMX (R300). -/
  | mmx (t0 : Bool) (st : Option Ext4) (o : RegOperands)
  /-- RRS (R303). -/
  | rrs (t0 : Bool) (st : Option Ext4) (o : RegOperands)
  /-- ZEXT8 (R304). -/
  | zext8 (st : Option Ext4) (o : RegOperands)
  /-- SEXT8 (R305). -/
  | sext8 (st : Option Ext4) (o : RegOperands)
  /-- ZEXT16 (R306). -/
  | zext16 (st : Option Ext4) (o : RegOperands)
  /-- SEXT16 (R307). -/
  | sext16 (st : Option Ext4) (o : RegOperands)
  /-- RDFLGS (R308). -/
  | rdflgs (t0 : Bool) (st : Option Ext4) (o : RegOperands)
  /-- DAA (R311). -/
  | daa (st : Option Ext4) (o : RegOperands)
  /-- DAS (R312). -/
  | das (st : Option Ext4) (o : RegOperands)
  /-- MOVcc (R313). -/
  | movcc (cc : BitVec 5) (ss : Bool) (o : RegOperands)
  /-- MUL1S (R314). -/
  | mul1s (st : Option Ext4) (o : RegOperands)
  /-- MUL1U (R315). -/
  | mul1u (st : Option Ext4) (o : RegOperands)
  /-- MULEH (R316). -/
  | muleh (st : Option Ext4) (o : RegOperands)
  /-- MULEL (R317). -/
  | mulel (st : Option Ext4) (o : RegOperands)
  /-- DIV1 (R318). -/
  | div1 (st : Option Ext4) (o : RegOperands)
  /-- DIV2 (R319). -/
  | div2 (st : Option Ext4) (o : RegOperands)
  /-- DIVER (R320). -/
  | diver (st : Option Ext4) (o : RegOperands)
  /-- DIVEQ (R321). -/
  | diveq (st : Option Ext4) (o : RegOperands)
  /-- RDxxx (R322). -/
  | rdxxx (k : BitVec 5) (ss : Bool) (o : RegOperands)
  /-- RDFLG (R323). -/
  | rdflg (st : Option Ext4) (o : RegOperands)
  /-- BSWAP (R324). -/
  | bswap (st : Option Ext4) (o : RegOperands)
  /-- RDSEG (R325). -/
  | rdseg (k : BitVec 5) (ss : Bool) (o : RegOperands)
  /-- WRDR (R330). -/
  | wrdr (st : Option Ext4) (o : RegOperands)
  /-- WRDL (R331). -/
  | wrdl (st : Option Ext4) (o : RegOperands)
  /-- WRxxx (R332). -/
  | wrxxx (k : BitVec 5) (ss : Bool) (o : RegOperands)
  /-- WRIP (R333). -/
  | wrip (st : Option Ext4) (o : RegOperands)
  /-- WRDLIP (R334). -/
  | wrdlip (st : Option Ext4) (o : RegOperands)
  /-- CHKS (R335). -/
  | chks (st : Option Ext4) (o : RegOperands)
  /-- WRDH (R336). -/
  | wrdh (st : Option Ext4) (o : RegOperands)
  /-- BRCOND (R370). -/
  | brcond (low : BitVec 2) (o : SpecOperands)
  /-- LDDHA (R371). -/
  | lddha (o : SpecOperands)
  /-- LDDHAB (R372). -/
  | lddhab (o : SpecOperands)
  /-- LDAHA (R373). -/
  | ldaha (o : SpecOperands)
  /-- LDAHAB (R374). -/
  | ldahab (o : SpecOperands)
  /-- LDK (R375). -/
  | ldk (o : SpecOperands)
  /-- FPOP (R376). -/
  | fpop (o : SpecOperands)
  /-- LDKD (R377). -/
  | ldkd (o : SpecOperands)
  /-- FPOPE (R378). -/
  | fpope (o : SpecOperands)
  /-- FAULT (R379). -/
  | fault (low : BitVec 2) (o : SpecOperands)
  /-- LIMM (R400): the 4-bit Dest and the 32-bit immediate ImmHi : ImmLo (30_encoding.md R205, R206). -/
  | limm (dest : BitVec 4) (imm : Word)
  /-- Bits 37:35 = 100, no format (R162); the other 35 bits. -/
  | noFormat (body : BitVec 35)
  /-- RegOp row 11011, unassigned (R337); bits 30:0. -/
  | unassigned (body : BitVec 31)
  deriving DecidableEq, Repr

end Sys2Proof
end

