-- ==== Sys2Proof/WellFormed.lean ====
section
/-! DEFINITION. Well-formed instructions: the field codes of a row are those its row has (30_encoding.md R211). -/

namespace Sys2Proof

/-- The decoder's verdicts on an encoding without a meaning (30_encoding.md R211). -/
inductive Illegal where
  /-- Bits 37:35 = 100 (R162). -/
  | noFormat
  /-- RegOp row 11011 (41_regops.md R337). -/
  | regOpType
  /-- RegOp DSz 110 or 111; DSz 00 of LDM, LDMSTL, STM, CDAF (R178, R190). -/
  | dsz
  /-- A 1-byte RegOp whose row has no 1-byte form. -/
  | byteSize
  /-- Seg = 0111 (R175). -/
  | seg
  /-- An MMX/3D register number from 9 to 23 (10_state.md R39). -/
  | mmReg
  /-- No word encodes it: a mnemonic recorded as another name of a row (41_regops.md R267), or a 1-byte Op at another
  size. The decoder never gives this verdict. -/
  | noEncoding
  deriving DecidableEq, Repr

/-- An MMX/3D register number names something: not 9 to 23 (10_state.md R39). -/
def mmNumberOk (n : RegNum) : Bool :=
  n.toNat ≤ 8 || 24 ≤ n.toNat

/-- The verdict on the sizes and the register number of an MMX load or store (30_encoding.md R211). -/
def mmIllegality (sz : FpSize) (data : RegNum) : Option Illegal :=
  if sz = .fpDSize then some .dsz else if mmNumberOk data then none else some .mmReg

/-- The verdict on a RegOp row without a 1-byte form (41_regops.md R263 to R266). -/
def byteIllegality (dsz : RegSize) : Option Illegal :=
  if dsz = .one then some .byteSize else none

/-- A 1-byte entry of a row exists at the 1-byte size only (41_regops.md R264, R265). -/
def byteOnlyIllegality (dsz : RegSize) : Option Illegal :=
  if dsz = .one then none else some .noEncoding

/-- Why an instruction is ill formed, if it is (30_encoding.md R211). The two reserved rows are rows of the table and
well formed; what they do is `exec`'s matter. -/
def Instr.illegality : Instr → Option Illegal
  | .ldm _ sz data
  | .ldmstl _ sz data
  | .stm _ sz data => mmIllegality sz data
  | .cdaf _ sz _ => if sz = .fpDSize then some .dsz else none
  | .ld _ _ _
  | .ldf _ _ _
  | .ldst _ _ _
  | .ldpf _ _ _
  | .ldstl _ _ _
  | .st _ _ _
  | .stf _ _ _
  | .stupd _ _ _
  | .cda _ _ _
  | .cia _ _ _
  | .tia _ _ _
  | .lea _ _ _ => none
  | .add _ _ _
  | .or _ _ _
  | .adc _ _ _
  | .sbb _ _ _
  | .and _ _ _
  | .sub _ _ _
  | .xor _ _ _
  | .cmp _ _ _
  | .sll _ _ _
  | .srl _ _ _
  | .sla _ _ _
  | .sra _ _ _ => none
  | .inc _ _ _
  | .dec _ _ _ => none
  | .mov sz _ _ => byteIllegality sz
  | .rls _ _ o
  | .rrs _ _ o
  | .daa _ o
  | .das _ o => byteOnlyIllegality o.dsz
  | .cadd _ _ _
  | .eor _ _ _
  | .eand _ _ _
  | .band _ _ _
  | .esub _ _ _
  | .csub _ _ _
  | .exor _ _ _
  | .bll _ _ _
  | .rlc _ _ _
  | .rrc _ _ _
  | .rld _ _ _
  | .rrd _ _ _
  | .mmx _ _ _ => some .noEncoding
  | .slc _ _ o
  | .src _ _ o
  | .sld _ _ o
  | .srd _ _ o
  | .zext8 _ o
  | .sext8 _ o
  | .zext16 _ o
  | .sext16 _ o
  | .rdflgs _ _ o
  | .movcc _ _ o
  | .mul1s _ o
  | .mul1u _ o
  | .muleh _ o
  | .mulel _ o
  | .div1 _ o
  | .div2 _ o
  | .diver _ o
  | .diveq _ o
  | .rdxxx _ _ o
  | .rdflg _ o
  | .bswap _ o
  | .rdseg _ _ o
  | .wrdr _ o
  | .wrdl _ o
  | .wrxxx _ _ o
  | .wrip _ o
  | .wrdlip _ o
  | .chks _ o
  | .wrdh _ o => byteIllegality o.dsz
  | .brcond _ _
  | .lddha _
  | .lddhab _
  | .ldaha _
  | .ldahab _
  | .ldk _
  | .fpop _
  | .ldkd _
  | .fpope _
  | .fault _ _
  | .limm _ _
  | .noFormat _
  | .unassigned _ => none

/-- The instruction is well formed. -/
def Instr.wellFormed (i : Instr) : Bool :=
  i.illegality.isNone

end Sys2Proof
end

