-- ==== Sys2Proof/Decode.lean ====
section
/-! DEFINITION. The decoder of a 38-bit Op (stage 1 of 30_encoding.md R210) and, after it, the encoder. -/

namespace Sys2Proof

/-- The `n`-bit field of an Op whose lowest bit is bit `lo` (00_scope.md R11). -/
def opField (w : OpWord) (lo n : Nat) : BitVec n :=
  w.extractLsb' lo n

/-- ISF[1:0] (30_encoding.md R173). -/
def scaleOf : BitVec 2 → Scale
  | 0b00#2 => .x1
  | 0b01#2 => .x2
  | 0b10#2 => .x4
  | _ => .x8

/-- Seg[3:0] (10_state.md R45); 0111 is reserved. -/
def segCodeOf (c : BitVec 4) : Option SegCode :=
  match c with
  | 0b0000#4 => some .es
  | 0b0001#4 => some .cs
  | 0b0010#4 => some .ss
  | 0b0011#4 => some .ds
  | 0b0100#4 => some .fs
  | 0b0101#4 => some .gs
  | 0b0110#4 => some .hs
  | 0b0111#4 => none
  | 0b1000#4 => some .ts0
  | 0b1001#4 => some .ts1
  | 0b1010#4 => some .ls
  | 0b1011#4 => some .ms
  | _ => some (.os (c.extractLsb' 0 2))

/-- ASz[1:0] before substitution (30_encoding.md R176). -/
def addrSizeOf : BitVec 2 → AddrSize
  | 0b00#2 => .asize
  | 0b01#2 => .ssize
  | 0b10#2 => .four
  | _ => .dsize

/-- DSz[1:0] by Table 2.25 and of a SpecOp (30_encoding.md R177, R198). -/
def intSizeOf : BitVec 2 → IntSize
  | 0b00#2 => .one
  | 0b01#2 => .two
  | 0b10#2 => .four
  | _ => .dsize

/-- DSz[1:0] by Table 2.26 (30_encoding.md R178). -/
def fpSizeOf : BitVec 2 → FpSize
  | 0b00#2 => .fpDSize
  | 0b01#2 => .two
  | 0b10#2 => .four
  | _ => .eight

/-- DSz[2:0] of a RegOp (30_encoding.md R190); 110 and 111 are unassigned. -/
def regSizeOf : BitVec 3 → Option RegSize
  | 0b000#3 => some .one
  | 0b001#3 => some .two
  | 0b010#3 => some .four
  | 0b011#3 => some .dsize
  | 0b100#3 => some .asize
  | 0b101#3 => some .ssize
  | _ => none

/-- The displacement of an LdStOp (30_encoding.md R174): Disp8 is ignored when LD = 1 (R212). -/
def dispOf (w : OpWord) : Disp :=
  if w.getLsbD 16 then .env32 else .disp8 (opField w 4 8)

/-- The second operand of a RegOp (30_encoding.md R191): bits 7:5 are ignored when I = 0 (R212). -/
def src2Of (w : OpWord) : Src2 :=
  if w.getLsbD 8 then .imm (opField w 0 8) else .reg (opField w 0 5)

/-- The address fields of an LdStOp whose segment code is `seg` (30_encoding.md R170). -/
def addressOf (w : OpWord) (seg : SegCode) : Address :=
  { isf := scaleOf (opField w 30 2), seg := seg, asz := addrSizeOf (opField w 24 2), base := opField w 12 4,
    disp := dispOf w, index := opField w 0 4 }

/-- The LdStOp of Type[3:0] (30_encoding.md R172); `z` is DSz[1:0]. -/
def ldStOf (type : Nat) (a : Address) (z : BitVec 2) (data : RegNum) : Instr :=
  match type with
  | 0 => .ld a (intSizeOf z) data
  | 1 => .ldf a (fpSizeOf z) data
  | 2 => .ldst a (intSizeOf z) data
  | 3 => .ldm a (fpSizeOf z) data
  | 4 => .cdaf a (fpSizeOf z) data
  | 5 => .ldpf a (intSizeOf z) data
  | 6 => .ldstl a (intSizeOf z) data
  | 7 => .ldmstl a (fpSizeOf z) data
  | 8 => .st a (intSizeOf z) data
  | 9 => .stf a (fpSizeOf z) data
  | 10 => .stupd a (intSizeOf z) data
  | 11 => .stm a (fpSizeOf z) data
  | 12 => .cda a (intSizeOf z) data
  | 13 => .cia a (intSizeOf z) data
  | 14 => .tia a (intSizeOf z) data
  | _ => .lea a (intSizeOf z) data

/-- An LdStOp whose row asks for a DSz other than 00: LDM, CDAF, LDMSTL, STM (30_encoding.md R216, `condition`). -/
def needsDsz (type : BitVec 4) : Bool :=
  [0b0011#4, 0b0100#4, 0b0111#4, 0b1011#4].contains type

/-- The LdStOp format (30_encoding.md R170). The condition of a row on DSz belongs to the matching of the row, the segment
code is checked after it (R216). -/
def decodeLdSt (w : OpWord) : Except Illegal Instr :=
  if needsDsz (opField w 32 4) ∧ opField w 22 2 = 0b00#2 then .error .dsz
  else
    match segCodeOf (opField w 26 4) with
    | none => .error .seg
    | some seg => .ok (ldStOf (opField w 32 4).toNat (addressOf w seg) (opField w 22 2) (opField w 17 5))

/-- The operand fields of a RegOp of size `dsz` (30_encoding.md R185). -/
def regOperandsOf (w : OpWord) (dsz : RegSize) : RegOperands :=
  { rx := w.getLsbD 25, dsz := dsz, dest := opField w 17 5, src1 := opField w 12 5, src2 := src2Of w }

/-- The status field of a RegOp (30_encoding.md R187, R189): Ext is ignored when SS = 0 (R212). -/
def statusOf (ss : Bool) (ext : Ext4) : Option Ext4 :=
  if ss then some ext else none

/-- The 5-bit number `Type[0] : Ext[3:0]` of MOVcc, RDxxx, WRxxx and RDSEG (30_encoding.md R187, D9). -/
def num5 (t0 : Bool) (ext : Ext4) : BitVec 5 :=
  BitVec.ofBool t0 ++ ext

/-- The RegOp of row Type[5:1] (41_regops.md R263 to R266); a row of Tables 2.31 and 2.32 gives its first mnemonic
(R267). Row 11011 is not asked here. -/
def regOpOf (row : Nat) (t0 ss : Bool) (ext : Ext4) (o : RegOperands) : Instr :=
  let st := statusOf ss ext
  match row with
  | 0 => .add t0 st o
  | 1 => .or t0 st o
  | 2 => .adc t0 st o
  | 3 => .sbb t0 st o
  | 4 => .and t0 st o
  | 5 => .sub t0 st o
  | 6 => .xor t0 st o
  | 7 => .cmp t0 st o
  | 8 => .sll t0 st o
  | 9 => .srl t0 st o
  | 10 => .slc t0 st o
  | 11 => .src t0 st o
  | 12 => .sla t0 st o
  | 13 => .sra t0 st o
  | 14 => if o.dsz = .one then .rls t0 st o else .sld t0 st o
  | 15 => if o.dsz = .one then .rrs t0 st o else .srd t0 st o
  | 16 => if t0 then .sext8 st o else .zext8 st o
  | 17 => if t0 then .sext16 st o else .zext16 st o
  | 18 => if o.dsz = .one then (if t0 then .das st o else .daa st o) else .rdflgs t0 st o
  | 19 => .movcc (num5 t0 ext) ss o
  | 20 => if t0 then .mul1u st o else .mul1s st o
  | 21 => if t0 then .mulel st o else .muleh st o
  | 22 => if t0 then .div2 st o else .div1 st o
  | 23 => if t0 then .diveq st o else .diver st o
  | 24 => .rdxxx (num5 t0 ext) ss o
  | 25 => if t0 then .bswap st o else .rdflg st o
  | 26 => .rdseg (num5 t0 ext) ss o
  | 28 => if t0 then .wrdl st o else .wrdr st o
  | 29 => .wrxxx (num5 t0 ext) ss o
  | 30 => if t0 then .wrdlip st o else .wrip st o
  | _ => if t0 then .wrdh st o else .chks st o

/-- The RegOp format (30_encoding.md R185). Row 11011 is unassigned whatever its fields (41_regops.md R337, log 36). -/
def decodeRegOp (w : OpWord) : Except Illegal Instr :=
  if opField w 31 5 = 0b11011#5 then .ok (.unassigned (opField w 0 31))
  else
    match regSizeOf (opField w 22 3) with
    | none => .error .dsz
    | some dsz =>
      .ok (regOpOf (opField w 31 5).toNat (w.getLsbD 30) (w.getLsbD 9) (opField w 26 4) (regOperandsOf w dsz))

/-- The fields of a SpecOp (30_encoding.md R195); bits 25:24 are ignored (R200, R212). -/
def specOperandsOf (w : OpWord) : SpecOperands :=
  { cc := opField w 26 5, dsz := intSizeOf (opField w 22 2), dest := opField w 17 5, imm17 := opField w 0 17 }

/-- The SpecOp of Type[3:0] (30_encoding.md R196). -/
def specOpOf (type : BitVec 4) (o : SpecOperands) : Instr :=
  match type.toNat with
  | 4 => .lddha o
  | 5 => .lddhab o
  | 6 => .ldaha o
  | 7 => .ldahab o
  | 8 => .ldk o
  | 9 => .fpop o
  | 10 => .ldkd o
  | 11 => .fpope o
  | n => if n < 4 then .brcond (type.extractLsb' 0 2) o else .fault (type.extractLsb' 0 2) o

/-- The fields of an Op by its format (30_encoding.md R161), before the checks of its row. -/
def decodeFields (w : OpWord) : Except Illegal Instr :=
  match (opField w 36 2).toNat with
  | 0 => decodeRegOp w
  | 1 => decodeLdSt w
  | 2 =>
    if w.getLsbD 35 then .ok (specOpOf (opField w 31 4) (specOperandsOf w)) else .ok (.noFormat (opField w 0 35))
  | _ => .ok (.limm (opField w 17 4) (opField w 21 15 ++ opField w 0 17))

/-- The decoder: total, an instruction or the verdict of 30_encoding.md R211. The two reserved rows decode to their own
constructors, which `exec` refuses by the same verdicts (log 27). -/
def decode (w : OpWord) : Except Illegal Instr :=
  match decodeFields w with
  | .error v => .error v
  | .ok i =>
    match i.illegality with
    | some v => .error v
    | none => .ok i

/-- The instruction the decoder reads from an instruction whose bits are `w`, numbered as opcode_table.json numbers them
(30_encoding.md R216). An Op has 38 bits (R160); bits of the container above bit 37 are no part of it (log 28). -/
def decodeTableWord (_nbits w : Nat) : Option Instr :=
  (decode (BitVec.ofNat 38 w)).toOption

/-- ISF[1:0] of a scale (30_encoding.md R173). -/
def Scale.code : Scale → BitVec 2
  | .x1 => 0b00#2
  | .x2 => 0b01#2
  | .x4 => 0b10#2
  | .x8 => 0b11#2

/-- Seg[3:0] of a segment code (10_state.md R45). -/
def SegCode.code : SegCode → BitVec 4
  | .es => 0b0000#4
  | .cs => 0b0001#4
  | .ss => 0b0010#4
  | .ds => 0b0011#4
  | .fs => 0b0100#4
  | .gs => 0b0101#4
  | .hs => 0b0110#4
  | .ts0 => 0b1000#4
  | .ts1 => 0b1001#4
  | .ls => 0b1010#4
  | .ms => 0b1011#4
  | .os low => 0b11#2 ++ low

/-- ASz[1:0] (30_encoding.md R176). -/
def AddrSize.code : AddrSize → BitVec 2
  | .asize => 0b00#2
  | .ssize => 0b01#2
  | .four => 0b10#2
  | .dsize => 0b11#2

/-- DSz[1:0] by Table 2.25 and of a SpecOp (30_encoding.md R177, R198). -/
def IntSize.code : IntSize → BitVec 2
  | .one => 0b00#2
  | .two => 0b01#2
  | .four => 0b10#2
  | .dsize => 0b11#2

/-- DSz[1:0] by Table 2.26 (30_encoding.md R178). -/
def FpSize.code : FpSize → BitVec 2
  | .fpDSize => 0b00#2
  | .two => 0b01#2
  | .four => 0b10#2
  | .eight => 0b11#2

/-- DSz[2:0] of a RegOp (30_encoding.md R190). -/
def RegSize.code : RegSize → BitVec 3
  | .one => 0b000#3
  | .two => 0b001#3
  | .four => 0b010#3
  | .dsize => 0b011#3
  | .asize => 0b100#3
  | .ssize => 0b101#3

/-- LD and Disp8 of a displacement; Disp8 is written 0 when LD = 1. -/
def Disp.code : Disp → BitVec 1 × BitVec 8
  | .disp8 v => (0#1, v)
  | .env32 => (1#1, 0#8)

/-- I and Imm8/Src2 of a second operand; bits 7:5 are written 0 when I = 0. -/
def Src2.code : Src2 → BitVec 1 × BitVec 8
  | .reg n => (0#1, 0#3 ++ n)
  | .imm v => (1#1, v)

/-- The word of an LdStOp (30_encoding.md R170). -/
def ldStWord (type : BitVec 4) (a : Address) (dsz : BitVec 2) (data : RegNum) : OpWord :=
  0b01#2 ++ type ++ a.isf.code ++ a.seg.code ++ a.asz.code ++ dsz ++ data ++ a.disp.code.1 ++ a.base ++
    a.disp.code.2 ++ a.index

/-- The word of a RegOp (30_encoding.md R185); bits 11:10 are written 0 (R192). -/
def regWord (row : BitVec 5) (t0 : Bool) (ext : Ext4) (ss : Bool) (o : RegOperands) : OpWord :=
  0b00#2 ++ row ++ BitVec.ofBool t0 ++ ext ++ BitVec.ofBool o.rx ++ o.dsz.code ++ o.dest ++ o.src1 ++ 0b00#2 ++
    BitVec.ofBool ss ++ o.src2.code.1 ++ o.src2.code.2

/-- The word of a RegOp whose Ext is a status field: Ext is written 0 when SS = 0. -/
def regStWord (row : BitVec 5) (t0 : Bool) (st : Option Ext4) (o : RegOperands) : OpWord :=
  regWord row t0 (st.getD 0) st.isSome o

/-- The word of a RegOp whose Type[0] and Ext are a 5-bit number (30_encoding.md R187). -/
def regNumWord (row : BitVec 5) (k : BitVec 5) (ss : Bool) (o : RegOperands) : OpWord :=
  regWord row k.msb (k.extractLsb' 0 4) ss o

/-- The word of a SpecOp (30_encoding.md R195); bits 25:24 are written 0 (R200). -/
def specWord (type : BitVec 4) (o : SpecOperands) : OpWord :=
  0b101#3 ++ type ++ o.cc ++ 0b00#2 ++ o.dsz.code ++ o.dest ++ o.imm17

/-- The word of a LIMMOp (30_encoding.md R205, R206). -/
def limmWord (dest : BitVec 4) (imm : Word) : OpWord :=
  0b11#2 ++ imm.extractLsb' 17 15 ++ dest ++ imm.extractLsb' 0 17

/-- What an assembler name of another Op stands for (30_encoding.md R215, D28): `INC dest, src1` is `ADD dest, src1, #1`
with ss = 0110 (41_regops.md R271), `DEC` the same of `SUB` (R283), `MOV dest, src` is `OR dest, t0, src` with SS = 0
(R273). Every other instruction is itself. -/
def Instr.canonical : Instr → Instr
  | .inc sz dest src1 => .add false (some 0b0110#4) ⟨false, sz, dest, src1, .imm 1⟩
  | .dec sz dest src1 => .sub false (some 0b0110#4) ⟨false, sz, dest, src1, .imm 1⟩
  | .mov sz dest src2 => .or false none ⟨false, sz, dest, 0b01111#5, src2⟩
  | i => i

/-- The encoder: the 38-bit word of a well-formed instruction, bits that belong to no field written 0. A mnemonic
without an encoding of its own has the words of its row (opcode_table.json gives it the row's pattern). -/
def encode : Instr → OpWord
  | .ld a sz data => ldStWord 0b0000#4 a sz.code data
  | .ldf a sz data => ldStWord 0b0001#4 a sz.code data
  | .ldst a sz data => ldStWord 0b0010#4 a sz.code data
  | .ldm a sz data => ldStWord 0b0011#4 a sz.code data
  | .cdaf a sz data => ldStWord 0b0100#4 a sz.code data
  | .ldpf a sz data => ldStWord 0b0101#4 a sz.code data
  | .ldstl a sz data => ldStWord 0b0110#4 a sz.code data
  | .ldmstl a sz data => ldStWord 0b0111#4 a sz.code data
  | .st a sz data => ldStWord 0b1000#4 a sz.code data
  | .stf a sz data => ldStWord 0b1001#4 a sz.code data
  | .stupd a sz data => ldStWord 0b1010#4 a sz.code data
  | .stm a sz data => ldStWord 0b1011#4 a sz.code data
  | .cda a sz data => ldStWord 0b1100#4 a sz.code data
  | .cia a sz data => ldStWord 0b1101#4 a sz.code data
  | .tia a sz data => ldStWord 0b1110#4 a sz.code data
  | .lea a sz data => ldStWord 0b1111#4 a sz.code data
  | .add t0 st o => regStWord 0b00000#5 t0 st o
  | .inc sz dest src1 => regStWord 0b00000#5 false (some 0b0110#4) ⟨false, sz, dest, src1, .imm 1⟩
  | .cadd t0 st o => regStWord 0b00000#5 t0 st o
  | .or t0 st o => regStWord 0b00001#5 t0 st o
  | .mov sz dest src2 => regStWord 0b00001#5 false none ⟨false, sz, dest, 0b01111#5, src2⟩
  | .eor t0 st o => regStWord 0b00001#5 t0 st o
  | .adc t0 st o => regStWord 0b00010#5 t0 st o
  | .sbb t0 st o => regStWord 0b00011#5 t0 st o
  | .and t0 st o => regStWord 0b00100#5 t0 st o
  | .eand t0 st o => regStWord 0b00100#5 t0 st o
  | .band t0 st o => regStWord 0b00100#5 t0 st o
  | .sub t0 st o => regStWord 0b00101#5 t0 st o
  | .esub t0 st o => regStWord 0b00101#5 t0 st o
  | .dec sz dest src1 => regStWord 0b00101#5 false (some 0b0110#4) ⟨false, sz, dest, src1, .imm 1⟩
  | .csub t0 st o => regStWord 0b00101#5 t0 st o
  | .xor t0 st o => regStWord 0b00110#5 t0 st o
  | .exor t0 st o => regStWord 0b00110#5 t0 st o
  | .cmp t0 st o => regStWord 0b00111#5 t0 st o
  | .sll t0 st o => regStWord 0b01000#5 t0 st o
  | .bll t0 st o => regStWord 0b01000#5 t0 st o
  | .srl t0 st o => regStWord 0b01001#5 t0 st o
  | .slc t0 st o => regStWord 0b01010#5 t0 st o
  | .rlc t0 st o => regStWord 0b01010#5 t0 st o
  | .src t0 st o => regStWord 0b01011#5 t0 st o
  | .rrc t0 st o => regStWord 0b01011#5 t0 st o
  | .sla t0 st o => regStWord 0b01100#5 t0 st o
  | .sra t0 st o => regStWord 0b01101#5 t0 st o
  | .sld t0 st o => regStWord 0b01110#5 t0 st o
  | .rld t0 st o => regStWord 0b01110#5 t0 st o
  | .rls t0 st o => regStWord 0b01110#5 t0 st o
  | .srd t0 st o => regStWord 0b01111#5 t0 st o
  | .rrd t0 st o => regStWord 0b01111#5 t0 st o
  | .mmx t0 st o => regStWord 0b01111#5 t0 st o
  | .rrs t0 st o => regStWord 0b01111#5 t0 st o
  | .zext8 st o => regStWord 0b10000#5 false st o
  | .sext8 st o => regStWord 0b10000#5 true st o
  | .zext16 st o => regStWord 0b10001#5 false st o
  | .sext16 st o => regStWord 0b10001#5 true st o
  | .rdflgs t0 st o => regStWord 0b10010#5 t0 st o
  | .daa st o => regStWord 0b10010#5 false st o
  | .das st o => regStWord 0b10010#5 true st o
  | .movcc cc ss o => regNumWord 0b10011#5 cc ss o
  | .mul1s st o => regStWord 0b10100#5 false st o
  | .mul1u st o => regStWord 0b10100#5 true st o
  | .muleh st o => regStWord 0b10101#5 false st o
  | .mulel st o => regStWord 0b10101#5 true st o
  | .div1 st o => regStWord 0b10110#5 false st o
  | .div2 st o => regStWord 0b10110#5 true st o
  | .diver st o => regStWord 0b10111#5 false st o
  | .diveq st o => regStWord 0b10111#5 true st o
  | .rdxxx k ss o => regNumWord 0b11000#5 k ss o
  | .rdflg st o => regStWord 0b11001#5 false st o
  | .bswap st o => regStWord 0b11001#5 true st o
  | .rdseg k ss o => regNumWord 0b11010#5 k ss o
  | .wrdr st o => regStWord 0b11100#5 false st o
  | .wrdl st o => regStWord 0b11100#5 true st o
  | .wrxxx k ss o => regNumWord 0b11101#5 k ss o
  | .wrip st o => regStWord 0b11110#5 false st o
  | .wrdlip st o => regStWord 0b11110#5 true st o
  | .chks st o => regStWord 0b11111#5 false st o
  | .wrdh st o => regStWord 0b11111#5 true st o
  | .brcond low o => specWord (0b00#2 ++ low) o
  | .lddha o => specWord 0b0100#4 o
  | .lddhab o => specWord 0b0101#4 o
  | .ldaha o => specWord 0b0110#4 o
  | .ldahab o => specWord 0b0111#4 o
  | .ldk o => specWord 0b1000#4 o
  | .fpop o => specWord 0b1001#4 o
  | .ldkd o => specWord 0b1010#4 o
  | .fpope o => specWord 0b1011#4 o
  | .fault low o => specWord (0b11#2 ++ low) o
  | .limm dest imm => limmWord dest imm
  | .noFormat body => 0b100#3 ++ body
  | .unassigned body => 0b00#2 ++ 0b11011#5 ++ body

/-- The bits of an Op the decoder ignores (30_encoding.md R212): Disp8 of an LdStOp with LD = 1; bits 11:10 of a RegOp,
its bits 7:5 when I = 0, its Ext when SS = 0 and its row takes Ext for no number; bits 25:24 of a SpecOp. -/
def ignoredBits (w : OpWord) : OpWord :=
  match (opField w 36 2).toNat with
  | 0 =>
    if opField w 31 5 = 0b11011#5 then 0
    else
      0x0000000C00#38 ||| (if w.getLsbD 8 then 0 else 0x00000000E0#38) |||
        (if w.getLsbD 9 || [0b10011#5, 0b11000#5, 0b11010#5, 0b11101#5].contains (opField w 31 5) then 0
          else 0x003C000000#38)
  | 1 => if w.getLsbD 16 then 0x0000000FF0#38 else 0
  | 2 => if w.getLsbD 35 then 0x0003000000#38 else 0
  | _ => 0

end Sys2Proof
end

