-- ==== Sys2Proof/Machine/State.lean ====
section
/-! DEFINITION. The state of the machine (10_state.md), its reset value, and the reasons a step can stop
(60_exceptions.md R412, R420, R455; 93_implementation_defined.md part 1). -/

namespace Sys2Proof.Machine

/-- The status flags (10_state.md R41). -/
structure Flags where
  /-- OF. -/
  of : Bool
  /-- CF. -/
  cf : Bool
  /-- ZF. -/
  zf : Bool
  /-- SF. -/
  sf : Bool
  /-- PF. -/
  pf : Bool
  /-- AF, the x86 auxiliary carry (41_regops.md R269). -/
  af : Bool
  /-- ECF; no Op of the model reads or writes it (42_specops.md R367, 41_regops.md R269). -/
  ecf : Bool
  /-- EZF; as ECF. -/
  ezf : Bool
  deriving DecidableEq, Repr

/-- The segment registers with storage (10_state.md R46). What one holds is opaque; the model observes its `SegBase`
only and holds that. DESIGN CHOICE, log 11. -/
structure SegFile where
  /-- ES. -/
  es : Word
  /-- CS. -/
  cs : Word
  /-- SS. -/
  ss : Word
  /-- DS. -/
  ds : Word
  /-- FS. -/
  fs : Word
  /-- GS. -/
  gs : Word
  /-- HS. -/
  hs : Word
  /-- TS(1000). -/
  ts0 : Word
  /-- TS(1001). -/
  ts1 : Word
  deriving DecidableEq, Repr

/-- The seventeen special registers the spec describes (10_state.md R48, R50 to R66), each as the bits it stores; which
bits a write replaces and a read returns is `Machine/SpecialRegs.lean`'s matter. -/
structure SpecialRegs where
  /-- SR0, general control and status (R50). -/
  sr0 : Word
  /-- SR1, fault control and status (R52). -/
  sr1 : Word
  /-- SR2, instruction and page fault (R53). -/
  sr2 : Word
  /-- SR3, page fault (R54). -/
  sr3 : Word
  /-- SR4, fault PC (R55, 90_conflicts.md C2). -/
  sr4 : Word
  /-- SR5, configuration in RUX (R56). -/
  sr5 : Word
  /-- SR13, instruction decode control (R57). -/
  sr13 : Word
  /-- SR16, MMX/3D status bits (R58). -/
  sr16 : Word
  /-- SR17, TSCL (R59). -/
  sr17 : Word
  /-- SR18, TSCH (R59). -/
  sr18 : Word
  /-- SR21, configuration in RUX (R60). -/
  sr21 : Word
  /-- SR24, NP presence and opcode (R61). -/
  sr24 : Word
  /-- SR25, NP code selector (R62). -/
  sr25 : Word
  /-- SR26, NP code offset (R63). -/
  sr26 : Word
  /-- SR27, NP data selector (R64). -/
  sr27 : Word
  /-- SR28, NP data offset (R65). -/
  sr28 : Word
  /-- SR29, NPCFG (R66). -/
  sr29 : Word
  deriving DecidableEq, Repr

/-- Hidden flags the source names (10_state.md R51, R52, R71). No rule reads or writes one (log 32). -/
structure HiddenFlags where
  /-- DTF, x86 debug trap pending. -/
  dtf : Bool
  /-- ISTF, temporary mask of INTR and STPCLK#. -/
  istf : Bool
  /-- BSNTF, temporary mask of instruction breakpoint, SMI# and NMI. -/
  bsntf : Bool
  deriving DecidableEq, Repr

/-- Numeric-processor state the source names outside SR24 to SR29 (10_state.md R69). SR29 acts on it (R66,
`npConfigured`); nothing else does, every floating-point Op is refused (log 32). -/
structure NpState where
  /-- The "Before Exception (stack fix up)" bit; SR29 bit 0 clears it. -/
  beforeException : Bool
  /-- NPPop[12], the hyper flag; asserted while SR29 bit 2 is 0. -/
  hyperFlg : Bool
  /-- The 32-bit Tag/Status/Control store; its upper half holds the inverse of SR29 bit 22. -/
  tagStatusControl : Word
  deriving DecidableEq, Repr

/-- The event `Lock(seg, EA, n)` of a locked load (20_memory.md R146). -/
structure LockEvent where
  /-- Segment after substitution. -/
  seg : Seg
  /-- Effective address. -/
  ea : Word
  /-- Number of bytes. -/
  n : Nat
  deriving DecidableEq, Repr

/-- Memory: a partial map from 32-bit physical address to byte (20_memory.md R140), as cells with strictly rising
addresses. An unlisted address is outside the launch memory and holds no byte (log 2). -/
abbrev Memory := List Host.Cell

/-- The state of the machine. -/
structure State where
  /-- The general registers by storage number 0 to 23 (10_state.md R33); slot 15 is t0 and is never read. -/
  regs : Vector Word 24
  /-- MM0 to MM7 (10_state.md R39). -/
  mm : Vector DWord 8
  /-- MMt1 (10_state.md R39). -/
  mmt1 : DWord
  /-- The status flags (10_state.md R41). -/
  flags : Flags
  /-- The last branch condition (42_specops.md R370). -/
  br : Bool
  /-- The index of the next Op in the program (10_state.md R40). -/
  pc : Nat
  /-- The segment registers (10_state.md R46). -/
  segs : SegFile
  /-- The special registers (10_state.md R48). -/
  sr : SpecialRegs
  /-- EIP, the x86 instruction pointer: "separate state that the admitted subset neither reads nor writes"
  (10_state.md R40). Its width is PRESUMED, log 31. -/
  eip : Word
  /-- EFlags.VM (10_state.md R44). -/
  eflagsVM : Bool
  /-- CR0.PE (10_state.md R44). -/
  cr0PE : Bool
  /-- Hidden flags (10_state.md R71). -/
  hidden : HiddenFlags
  /-- Numeric-processor state (10_state.md R69). -/
  np : NpState
  /-- The memory (20_memory.md R140). -/
  mem : Memory
  /-- The Lock events so far, oldest first (20_memory.md R146). -/
  locks : List LockEvent
  /-- The program: a list of Ops outside memory (10_state.md R40). -/
  program : List OpWord
  /-- The environment record (00_scope.md R9). -/
  env : Env
  /-- The open parameters (00_scope.md R10). -/
  params : Params
  /-- How many free values have been drawn: the model's own field (log 9). -/
  draws : Nat
  deriving DecidableEq, Repr

/-- What ends a run as a fault (60_exceptions.md R412, R420) or stuck (70_reset_and_hazards.md R455). `pc` is that of the
faulting Op. -/
inductive Fault where
  /-- Raised by FAULT with its Imm17 and Type[1:0] (42_specops.md R379). The spec's own outcome; unsafe for a claim about
  what the hardware's handler does, which the spec does not give. -/
  | opFault (imm17 : BitVec 17) (type : BitVec 2) (pc : Nat)
  /-- Raised by an LdStOp whose `SegCheck` is false (20_memory.md R138). The spec's own outcome; safe. -/
  | segFault (seg : Seg) (ea : Word) (pc : Nat)
  /-- Raised by an LdStOp whose `Translate` gives a page fault (20_memory.md R139). The spec's own outcome; safe. -/
  | pageFault (ea : Word) (kind : AccessKind) (pc : Nat)
  /-- Stuck: a memory access touches the physical address `pa` outside the launch memory (20_memory.md R140, R455).
  Safe. -/
  | stuck (pa : Nat) (pc : Nat)
  deriving DecidableEq, Repr

/-- What ends a run as a refusal (00_scope.md R7, 93_implementation_defined.md part 1), or ends it `final`. Every one is
safe: nothing can be claimed through it. -/
inductive Refusal where
  /-- An instruction the model gives no meaning, by its mnemonic. -/
  | notModelled (mnemonic : String)
  /-- An encoding without a meaning (30_encoding.md R211); answered by `step` and by the reserved rows. -/
  | illegal (v : Illegal) (pc : Nat)
  /-- An Op the spec gives no meaning: "name only", "REFUSED" (00_scope.md R7). -/
  | noSemantics (pc : Nat)
  /-- A floating-point Op (40_ldstops.md R225, R233, 42_specops.md R376, R378). -/
  | floatingPoint (pc : Nat)
  /-- A RegOp with RX = 1 (30_encoding.md R188). -/
  | rxSet (pc : Nat)
  /-- Type[0] = 1 in a row of Tables 2.31 and 2.32 (41_regops.md R267). -/
  | type0 (pc : Nat)
  /-- SS = 1 where the flags are not stated (41_regops.md R269). -/
  | flagsUnknown (pc : Nat)
  /-- A form whose operand roles are not stated (41_regops.md R313, R327, R332). -/
  | operandRole (pc : Nat)
  /-- A condition on ECF or EZF (42_specops.md R367). -/
  | emuFlags (pc : Nat)
  /-- A string condition (42_specops.md R367). -/
  | stringCond (pc : Nat)
  /-- A special register the source does not describe (10_state.md R67). -/
  | unknownSR (pc : Nat)
  /-- RDxxx or WRxxx at a size other than 4 bytes (41_regops.md R322, R332). -/
  | srSize (pc : Nat)
  /-- WRxxx setting a reserved bit (10_state.md R68, 41_regops.md R332). -/
  | reservedSRBit (pc : Nat)
  /-- WRxxx setting an action bit (41_regops.md R332). -/
  | srAction (pc : Nat)
  /-- BSWAP at a size other than 4 bytes (41_regops.md R324). -/
  | bswapSize (pc : Nat)
  /-- LDK at a size other than 4 bytes (42_specops.md R375). -/
  | ldkSize (pc : Nat)
  /-- LDM or LDMSTL at 2 or 4 bytes (40_ldstops.md R227). -/
  | mmxPartialLoad (pc : Nat)
  /-- An access through segment MS (20_memory.md R133). -/
  | specialMemory (pc : Nat)
  /-- A misaligned access under `misaligned_policy = refuse` (20_memory.md R144). -/
  | misaligned (pc : Nat)
  /-- The run is final: `pc` equals the length of the program and there is no Op to run (70_reset_and_hazards.md R455,
  log 4). Answered by `step` only. -/
  | final (pc : Nat)
  /-- `pc` lies beyond the end of the program, which no run reaches; answered by `step` only (log 4). -/
  | pcBeyond (pc : Nat)
  deriving DecidableEq, Repr

/-- The machine after reset with nothing supplied by a host (10_state.md R95, 70_reset_and_hazards.md R451, R453): `pc`
0 and t0 reading 0 as the rules state; EIP the x86 family's 0000FFF0H, PRESUMED, log 31; the numeric-processor state what
SR29 = 0 makes of it (R66, log 32); every other register 0, DESIGN CHOICE, log 1; the program and the memory empty
(log 2, 3); the environment and the parameters of Config (log 5, 7). -/
def State.reset : State :=
  { regs := Vector.replicate 24 0
    mm := Vector.replicate 8 0
    mmt1 := 0
    flags := { of := false, cf := false, zf := false, sf := false, pf := false, af := false, ecf := false, ezf := false }
    br := false
    pc := 0
    segs := { es := 0, cs := 0, ss := 0, ds := 0, fs := 0, gs := 0, hs := 0, ts0 := 0, ts1 := 0 }
    sr := { sr0 := 0, sr1 := 0, sr2 := 0, sr3 := 0, sr4 := 0, sr5 := 0, sr13 := 0, sr16 := 0, sr17 := 0, sr18 := 0,
            sr21 := 0, sr24 := 0, sr25 := 0, sr26 := 0, sr27 := 0, sr28 := 0, sr29 := 0 }
    eip := 0x0000FFF0
    eflagsVM := false
    cr0PE := false
    hidden := { dtf := false, istf := false, bsntf := false }
    np := { beforeException := false, hyperFlg := true, tagStatusControl := 0xFFFF0000 }
    mem := []
    locks := []
    program := []
    env := Config.defaultEnv
    params := Config.defaultParams
    draws := 0 }

end Sys2Proof.Machine
end

