-- ==== Sys2Proof/Machine/SpecialRegs.lean ====
section
/-! DEFINITION. The special registers field by field (10_state.md R48 to R68): the access code of every field, what a
write replaces and what a read returns (R49, D22). -/

namespace Sys2Proof.Machine

/-- The seventeen special registers the source describes (10_state.md R48). -/
inductive SR where
  | sr0 | sr1 | sr2 | sr3 | sr4 | sr5 | sr13 | sr16 | sr17 | sr18 | sr21 | sr24 | sr25 | sr26 | sr27 | sr28 | sr29
  deriving DecidableEq, Repr

/-- The special register of a 5-bit number: the number of SRn is n (10_state.md R48), the other numbers name none (R67). -/
def srOfNumber (k : BitVec 5) : Option SR :=
  match k.toNat with
  | 0 => some .sr0
  | 1 => some .sr1
  | 2 => some .sr2
  | 3 => some .sr3
  | 4 => some .sr4
  | 5 => some .sr5
  | 13 => some .sr13
  | 16 => some .sr16
  | 17 => some .sr17
  | 18 => some .sr18
  | 21 => some .sr21
  | 24 => some .sr24
  | 25 => some .sr25
  | 26 => some .sr26
  | 27 => some .sr27
  | 28 => some .sr28
  | 29 => some .sr29
  | _ => none

/-- The access codes of the source (00_scope.md R14); `reserved` is the dash. -/
inductive SRAccess where
  | r | w | rw | ew | reserved
  deriving DecidableEq, Repr

/-- One row of a special register's table. -/
structure SRField where
  /-- The field's name in the source. -/
  name : String
  /-- Highest bit. -/
  hi : Nat
  /-- Lowest bit. -/
  lo : Nat
  /-- Access code. -/
  access : SRAccess
  deriving DecidableEq, Repr

/-- The field table of each special register (R50, R52, R53, R54, R55, R56, R57, R58, R59, R60, R61, R62, R63, R64, R65, R66 of 10_state.md). -/
def srFields : SR → List SRField
  | .sr0 =>
    [⟨"CPL", 1, 0, .r⟩, ⟨"IOS", 2, 2, .r⟩, ⟨"V86", 3, 3, .r⟩, ⟨"REAL", 4, 4, .r⟩, ⟨"EWBE", 5, 5, .r⟩,
      ⟨"BusBsy", 6, 6, .r⟩, ⟨"PMSP", 7, 7, .r⟩, ⟨"FLUSHP", 8, 8, .r⟩, ⟨"SMIP", 9, 9, .r⟩, ⟨"INITP", 10, 10, .r⟩,
      ⟨"NMIP", 11, 11, .r⟩, ⟨"INTRP", 12, 12, .r⟩, ⟨"STPCLKP", 13, 13, .r⟩, ⟨"VME", 14, 14, .rw⟩,
      ⟨"PVI", 15, 15, .rw⟩, ⟨"ClrFLUSHP", 16, 16, .w⟩, ⟨"ClrSMIP", 17, 17, .w⟩, ⟨"ClrINITP", 18, 18, .w⟩,
      ⟨"ClrNMIP", 19, 19, .w⟩, ⟨"ClrISTF", 20, 20, .w⟩, ⟨"ClrBSNTF", 21, 21, .w⟩, ⟨"NF", 22, 22, .rw⟩,
      ⟨"RIF", 23, 23, .w⟩, ⟨"SMIACT", 24, 24, .rw⟩, ⟨"FERR", 25, 25, .rw⟩, ⟨"StopClk", 26, 26, .rw⟩,
      ⟨"HaltClk", 27, 27, .rw⟩, ⟨"IGNNE", 28, 28, .r⟩, ⟨"RBGO", 29, 29, .w⟩, ⟨"RBDN", 30, 30, .r⟩,
      ⟨"RBPF", 31, 31, .r⟩]
  | .sr1 =>
    [⟨"FID", 2, 0, .r⟩, ⟨"TSA", 3, 3, .r⟩, ⟨"ClrDTF", 4, 4, .w⟩, ⟨"ClrSSTF", 5, 5, .w⟩, ⟨"FPF", 6, 6, .r⟩,
      ⟨"EF", 7, 7, .r⟩, ⟨"IPFI", 10, 8, .r⟩, ⟨"DlyPG", 11, 11, .w⟩, ⟨"DPFI", 14, 12, .r⟩, ⟨"BIM", 15, 15, .r⟩,
      ⟨"DBN", 19, 16, .r⟩, ⟨"IBN", 23, 20, .r⟩, ⟨"SubOpcd", 26, 24, .r⟩, ⟨"OCPL", 28, 27, .r⟩, ⟨"RBD", 29, 29, .r⟩,
      ⟨"SSTF", 30, 30, .r⟩, ⟨"SDM", 31, 31, .r⟩]
  | .sr2 =>
    [⟨"logical address of last instruction fetch page fault", 31, 0, .r⟩]
  | .sr3 =>
    [⟨"logical address of last operand page fault", 31, 0, .r⟩]
  | .sr4 =>
    [⟨"fault PC", 31, 0, .r⟩]
  | .sr5 =>
    [⟨"L1ICD", 0, 0, .ew⟩, ⟨"L1DCD", 1, 1, .ew⟩, ⟨"L1CI", 2, 2, .ew⟩, ⟨"DE", 3, 3, .ew⟩, ⟨"PSE", 4, 4, .ew⟩,
      ⟨"WAD", 5, 5, .ew⟩, ⟨"PDD", 6, 6, .ew⟩, ⟨"NPFCD", 7, 7, .ew⟩, ⟨"SMO", 8, 8, .ew⟩, ⟨"VSMO", 9, 9, .ew⟩,
      ⟨"SMCD", 10, 10, .ew⟩, ⟨"BPTD", 11, 11, .ew⟩, ⟨"BTBD", 12, 12, .ew⟩, ⟨"ROBD", 13, 13, .ew⟩,
      ⟨"LCKD", 14, 14, .ew⟩, ⟨"STQFD", 15, 15, .ew⟩, ⟨"DCERLR", 16, 16, .ew⟩, ⟨"DCSLD", 17, 17, .ew⟩,
      ⟨"ICERLR", 18, 18, .ew⟩, ⟨"WBCD", 19, 19, .ew⟩, ⟨"SLDD", 20, 20, .ew⟩, ⟨"DTBDM", 21, 21, .ew⟩,
      ⟨"DCDM", 22, 22, .ew⟩, ⟨"ICDM", 23, 23, .ew⟩, ⟨"REGN", 28, 24, .ew⟩, ⟨"RUYD", 29, 29, .ew⟩,
      ⟨"BPTNT", 30, 30, .ew⟩, ⟨"ICPFD", 31, 31, .ew⟩]
  | .sr13 =>
    [⟨"SDD", 7, 0, .ew⟩, ⟨"MDD", 9, 8, .ew⟩, ⟨"LDD", 10, 10, .ew⟩, ⟨"SetVEC1", 11, 11, .w⟩,
      ⟨"ExtExcpVEC", 12, 12, .ew⟩, ⟨"ESCDD", 13, 13, .ew⟩, ⟨"MMXDD", 14, 14, .ew⟩, ⟨"SD2D", 15, 15, .ew⟩,
      ⟨"ExtVEC", 31, 16, .ew⟩]
  | .sr16 =>
    [⟨"MMXD", 7, 0, .r⟩, ⟨"MMXSTC", 8, 8, .r⟩, ⟨"Reserved", 31, 9, .reserved⟩]
  | .sr17 =>
    [⟨"TSCL", 31, 0, .rw⟩]
  | .sr18 =>
    [⟨"TSCH", 31, 0, .rw⟩]
  | .sr21 =>
    [⟨"Reserved", 0, 0, .reserved⟩, ⟨"NAD", 1, 1, .ew⟩, ⟨"SIE", 2, 2, .ew⟩, ⟨"FEEC", 3, 3, .ew⟩, ⟨"SSD", 4, 4, .ew⟩,
      ⟨"Reserved", 14, 5, .reserved⟩, ⟨"INVC", 15, 15, .ew⟩, ⟨"WAE15M", 16, 16, .ew⟩, ⟨"WAELIM", 23, 17, .ew⟩,
      ⟨"PDED", 24, 24, .ew⟩, ⟨"Reserved", 31, 25, .reserved⟩]
  | .sr24 =>
    [⟨"FpOpcd", 10, 0, .rw⟩, ⟨"Reserved", 30, 11, .reserved⟩, ⟨"NPNotPres", 31, 31, .r⟩]
  | .sr25 =>
    [⟨"FpOpcdSel", 15, 0, .rw⟩, ⟨"Reserved", 27, 16, .reserved⟩, ⟨"PrfxCnt", 31, 28, .r⟩]
  | .sr26 =>
    [⟨"FpCodeOffs", 31, 0, .rw⟩]
  | .sr27 =>
    [⟨"FpDataSel", 15, 0, .rw⟩, ⟨"Reserved", 31, 16, .reserved⟩]
  | .sr28 =>
    [⟨"FpDateOffs", 31, 0, .rw⟩]
  | .sr29 =>
    [⟨"ClearBeforeException", 0, 0, .ew⟩, ⟨"Do Shared State", 1, 1, .ew⟩, ⟨"Enable HyperFlg", 2, 2, .ew⟩,
      ⟨"StoreExMode", 3, 3, .ew⟩, ⟨"Reserved", 5, 4, .reserved⟩, ⟨"FastFXCH", 6, 6, .ew⟩,
      ⟨"false_dependency_suppress", 7, 7, .ew⟩, ⟨"Disable0Cycle", 8, 8, .ew⟩, ⟨"Reserved", 13, 9, .reserved⟩,
      ⟨"mask_hyperterm", 14, 14, .ew⟩, ⟨"Reserved", 15, 15, .ew⟩, ⟨"Busy", 16, 16, .ew⟩, ⟨"Reserved", 21, 17, .ew⟩,
      ⟨"UpperTSCWord", 22, 22, .ew⟩, ⟨"Reserved", 31, 23, .ew⟩]

/-- The bits of a field. -/
def SRField.bits (f : SRField) : Word :=
  BitVec.ofNat 32 ((2 ^ (f.hi - f.lo + 1) - 1) * 2 ^ f.lo)

/-- The bits of the fields of `k` whose access code is in `codes`. -/
def srMask (codes : List SRAccess) (k : SR) : Word :=
  (srFields k).foldl (fun m f => if codes.contains f.access then m ||| f.bits else m) 0

/-- The bits a write replaces: R/W and E/W fields (10_state.md R49). -/
def srStoreMask (k : SR) : Word :=
  srMask [.rw, .ew] k

/-- The action bits (10_state.md R49). -/
def srActionMask (k : SR) : Word :=
  srMask [.w] k

/-- The reserved bits (10_state.md R68). -/
def srReservedMask (k : SR) : Word :=
  srMask [.reserved] k

/-- The bits a read returns from the stored value: the stored fields, but of the time stamp counter none, whose read is
a free value (60_exceptions.md R435, log 19). -/
def srReadMask (k : SR) : Word :=
  match k with
  | .sr17 | .sr18 => 0
  | _ => srStoreMask k

/-- The stored bits of a special register. -/
def SpecialRegs.get (f : SpecialRegs) : SR → Word
  | .sr0 => f.sr0
  | .sr1 => f.sr1
  | .sr2 => f.sr2
  | .sr3 => f.sr3
  | .sr4 => f.sr4
  | .sr5 => f.sr5
  | .sr13 => f.sr13
  | .sr16 => f.sr16
  | .sr17 => f.sr17
  | .sr18 => f.sr18
  | .sr21 => f.sr21
  | .sr24 => f.sr24
  | .sr25 => f.sr25
  | .sr26 => f.sr26
  | .sr27 => f.sr27
  | .sr28 => f.sr28
  | .sr29 => f.sr29

/-- The special registers with the stored bits of one replaced. -/
def SpecialRegs.set (f : SpecialRegs) (k : SR) (v : Word) : SpecialRegs :=
  match k with
  | .sr0 => { f with sr0 := v }
  | .sr1 => { f with sr1 := v }
  | .sr2 => { f with sr2 := v }
  | .sr3 => { f with sr3 := v }
  | .sr4 => { f with sr4 := v }
  | .sr5 => { f with sr5 := v }
  | .sr13 => { f with sr13 := v }
  | .sr16 => { f with sr16 := v }
  | .sr17 => { f with sr17 := v }
  | .sr18 => { f with sr18 := v }
  | .sr21 => { f with sr21 := v }
  | .sr24 => { f with sr24 := v }
  | .sr25 => { f with sr25 := v }
  | .sr26 => { f with sr26 := v }
  | .sr27 => { f with sr27 := v }
  | .sr28 => { f with sr28 := v }
  | .sr29 => { f with sr29 := v }

/-- The status SR0.V86, `EFlags.VM && CR0.PE` (10_state.md R44). It is a status of the machine and not what a read of
SR0 returns: D20 makes the read of every R field a free value (log 17). -/
def sr0V86 (s : State) : Bool :=
  s.eflagsVM && s.cr0PE

/-- The status SR0.REAL, `!CR0.PE` (10_state.md R44, log 17). -/
def sr0Real (s : State) : Bool :=
  !s.cr0PE

/-- The value a read of `k` returns when the free value is `d` (10_state.md R49, 41_regops.md R322): stored bits, and `d`
for the rest, R fields among them (D20, D22). -/
def srReadValue (s : State) (k : SR) (d : Word) : Word :=
  (s.sr.get k &&& srReadMask k) ||| (d &&& ~~~(srReadMask k))

/-- The stored bits of `k` after `v` is written (10_state.md R49, 41_regops.md R332): R/W and E/W fields replaced. -/
def srWritten (s : State) (k : SR) (v : Word) : Word :=
  (s.sr.get k &&& ~~~(srStoreMask k)) ||| (v &&& srStoreMask k)

/-- What SR29 with the bits `cfg` makes of the numeric-processor state (10_state.md R66, R69): bit 0 clears the Before
Exception bit; bit 2 = 0 asserts the hyper flag, and with bit 2 = 1 the flag keeps its level (DESIGN CHOICE, log 32); the
upper half of the Tag/Status/Control store is filled with the inverse of bit 22. -/
def npConfigured (np : NpState) (cfg : Word) : NpState :=
  { beforeException := np.beforeException && !cfg.getLsbD 0
    hyperFlg := np.hyperFlg || !cfg.getLsbD 2
    tagStatusControl := (if cfg.getLsbD 22 then 0x0000#16 else 0xFFFF#16) ++ np.tagStatusControl.extractLsb' 0 16 }

/-- The numeric-processor state after special register `k` got the bits `v`: only SR29 acts on it (10_state.md R66). -/
def npAfter (s : State) (k : SR) (v : Word) : NpState :=
  match k with
  | .sr29 => npConfigured s.np v
  | _ => s.np

end Sys2Proof.Machine
end

