-- ==== Sys2Proof/Machine/Ops.lean ====
section
/-! DEFINITION. The shared operations: the result of a meaning, the taking of an exception, registers (10_state.md
R33 to R39), memory access (20_memory.md), free values, and the fetch of an Op (10_state.md R40). -/

namespace Sys2Proof.Machine

/-! ### How a meaning ends -/

/-- What ends a step without a next state. -/
inductive Stop where
  | fault (f : Fault)
  | refusal (r : Refusal)
  deriving DecidableEq, Repr

/-- The result of a part of a meaning. -/
abbrev Res (α : Type) := Except Stop α

/-- The outcome of a whole meaning. -/
def finish : Res State → Host.Outcome State Fault Refusal
  | .ok s => .next s
  | .error (.fault f) => .fault f
  | .error (.refusal r) => .refused r

/-- `raise X(info)`, the taking of an exception (60_exceptions.md R420): the step ends with the fault and no register,
flag or memory byte changed. "There is no handler, no saved state, no vector", and no return (R422). -/
def raise {α : Type} (f : Fault) : Res α :=
  .error (.fault f)

/-- `REFUSE(reason)` (00_scope.md R13). -/
def refuse {α : Type} (r : Refusal) : Res α :=
  .error (.refusal r)

/-- Refuse unless `c` holds. -/
def refuseUnless (c : Bool) (r : Refusal) : Res Unit :=
  if c then .ok () else refuse r

/-- Raise a fault unless `c` holds. -/
def raiseUnless (c : Bool) (f : Fault) : Res Unit :=
  if c then .ok () else raise f

/-! ### State updates -/

/-- The state with the general registers replaced. -/
def State.withRegs (s : State) (v : Vector Word 24) : State := { s with regs := v }

/-- The state with MM0 to MM7 replaced. -/
def State.withMm (s : State) (v : Vector DWord 8) : State := { s with mm := v }

/-- The state with MMt1 replaced. -/
def State.withMmt1 (s : State) (v : DWord) : State := { s with mmt1 := v }

/-- The state with the flags replaced. -/
def State.withFlags (s : State) (v : Flags) : State := { s with flags := v }

/-- The state with `br` replaced. -/
def State.withBr (s : State) (v : Bool) : State := { s with br := v }

/-- `pc <- pc + 1` (10_state.md R40). -/
def State.advance (s : State) : State := { s with pc := s.pc + 1 }

/-- The state with the special registers replaced. -/
def State.withSr (s : State) (v : SpecialRegs) : State := { s with sr := v }

/-- The state with the numeric-processor state replaced. -/
def State.withNp (s : State) (v : NpState) : State := { s with np := v }

/-- The state with the memory replaced. -/
def State.withMem (s : State) (v : Memory) : State := { s with mem := v }

/-- The state with the Lock events replaced. -/
def State.withLocks (s : State) (v : List LockEvent) : State := { s with locks := v }

/-- The state with the program replaced. -/
def State.withProgram (s : State) (v : List OpWord) : State := { s with program := v }

/-- The state after one free value is drawn. -/
def State.drew (s : State) : State := { s with draws := s.draws + 1 }

/-- `draw(32)` (00_scope.md R13, log 9): the next free value of the run; a narrower draw is its low bits. -/
def State.drawn (s : State) : Word :=
  Config.freeWord s.draws

/-! ### General registers -/

/-- The storage number of t0 (10_state.md R33). -/
def t0Slot : Fin 24 := 15

/-- The storage a register number names (10_state.md R33): 24 to 27 are `Env.reg`, 28 to 31 `Env.regm`. -/
def slotOf (e : Env) (n : RegNum) : Fin 24 :=
  if h : n.toNat < 24 then ⟨n.toNat, h⟩
  else if n.toNat < 28 then ⟨e.reg.toNat, by have := e.reg.isLt; omega⟩
  else ⟨e.regm.toNat, by have := e.regm.isLt; omega⟩

/-- The storage a 1-byte register number names (10_state.md R36): the number itself for the L names, four less for the H
names. -/
def byteSlot (e : Env) (n : RegNum) : Fin 24 :=
  let k := slotOf e n
  if k.val % 8 < 4 then k else ⟨k.val - 4, by omega⟩

/-- Whether a 1-byte register number names bits 15:8 (10_state.md R36). -/
def byteIsHigh (e : Env) (n : RegNum) : Bool :=
  4 ≤ (slotOf e n).val % 8

/-- The 32-bit register of a storage number; t0 reads zero (10_state.md R34). -/
def getSlot (s : State) (k : Fin 24) : Word :=
  if k = t0Slot then 0 else s.regs[k]

/-- Write the 32-bit register of a storage number; a write to t0 is discarded (10_state.md R34). -/
def setSlot (s : State) (k : Fin 24) (v : Word) : State :=
  if k = t0Slot then s else s.withRegs (s.regs.set k v)

/-- `r[n]` (10_state.md R33). -/
def reg32 (s : State) (n : RegNum) : Word :=
  getSlot s (slotOf s.env n)

/-- `rd(n, sz)` (10_state.md R35, R36). -/
def rd (s : State) (n : RegNum) (sz : Size) : BitVec sz.bits :=
  match sz with
  | .four => reg32 s n
  | .two => (reg32 s n).extractLsb' 0 16
  | .one => (getSlot s (byteSlot s.env n)).extractLsb' (if byteIsHigh s.env n then 8 else 0) 8

/-- A 32-bit register with its low word replaced (10_state.md R37). -/
def mergeWord (r : Word) (v : BitVec 16) : Word :=
  r.extractLsb' 16 16 ++ v

/-- A 32-bit register with the byte of bits 15:8 or 7:0 replaced (10_state.md R36, R37). -/
def mergeByte (r : Word) (high : Bool) (v : BitVec 8) : Word :=
  if high then r.extractLsb' 16 16 ++ v ++ r.extractLsb' 0 8 else r.extractLsb' 8 24 ++ v

/-- `wr(n, sz, v)` (10_state.md R37): the bits a narrow write does not name are kept. -/
def wr (s : State) (n : RegNum) (sz : Size) (v : BitVec sz.bits) : State :=
  match sz, v with
  | .four, v => setSlot s (slotOf s.env n) v
  | .two, v => setSlot s (slotOf s.env n) (mergeWord (reg32 s n) v)
  | .one, v =>
    setSlot s (byteSlot s.env n) (mergeByte (getSlot s (byteSlot s.env n)) (byteIsHigh s.env n) v)

/-! ### MMX/3D registers -/

/-- An MMX/3D register with storage (10_state.md R39). -/
inductive MmSlot where
  | mm (k : Fin 8)
  | t1
  deriving DecidableEq, Repr

/-- `mmreg(n)` (40_ldstops.md R227, 10_state.md R39); 9 to 23 name nothing. -/
def mmSlotOf (e : Env) (n : RegNum) : Option MmSlot :=
  if h : 24 ≤ n.toNat then some (.mm ⟨n.toNat - 24, by have := n.isLt; omega⟩)
  else if n.toNat < 4 then some (.mm e.reg.toFin)
  else if n.toNat < 8 then some (.mm e.regm.toFin)
  else if n.toNat = 8 then some .t1
  else none

/-- Read an MMX/3D register. -/
def getMm (s : State) : MmSlot → DWord
  | .mm k => s.mm[k]
  | .t1 => s.mmt1

/-- Write an MMX/3D register. -/
def setMm (s : State) (r : MmSlot) (v : DWord) : State :=
  match r with
  | .mm k => s.withMm (s.mm.set k v)
  | .t1 => s.withMmt1 v

/-! ### Memory cells -/

/-- The byte at a physical address, if the launch memory holds one (20_memory.md R140). -/
def Memory.lookup : Memory → Nat → Option Byte
  | [], _ => none
  | c :: m, a => if c.1 = a then some c.2 else Memory.lookup m a

/-- The memory with the byte at a listed address replaced; an address outside the launch memory stays outside. -/
def Memory.store : Memory → Nat → Byte → Memory
  | [], _, _ => []
  | c :: m, a, v => if c.1 = a then (c.1, v) :: m else c :: Memory.store m a v

/-- Addresses rise strictly from `lo` and are 32-bit (20_memory.md R131). -/
def Memory.wfFrom : Nat → Memory → Bool
  | _, [] => true
  | lo, c :: m => decide (lo ≤ c.1) && decide (c.1 < 2 ^ 32) && Memory.wfFrom (c.1 + 1) m

/-- The canonical form of a memory: strictly rising 32-bit addresses. An unlisted address has no value, so no entry
equals it. -/
def Memory.wf (m : Memory) : Bool :=
  Memory.wfFrom 0 m

/-- The bytes of a value, little-endian (20_memory.md R143). -/
def fromBytes : List Byte → DWord
  | [] => 0
  | b :: bs => (fromBytes bs <<< 8) ||| b.setWidth 64

/-- Store the low bytes of a value at the addresses in turn (20_memory.md R141). -/
def storeBytes : Memory → List Nat → DWord → Memory
  | m, [], _ => m
  | m, p :: ps, v => storeBytes (m.store p (v.setWidth 8)) ps (v >>> 8)

/-! ### Segmentation, translation, access -/

/-- `SegBase(seg)` (20_memory.md R137); the base of LS is 0 (10_state.md R45). No access goes through MS (R133). -/
def segBase (s : State) : Seg → Word
  | .es => s.segs.es
  | .cs => s.segs.cs
  | .ss => s.segs.ss
  | .ds => s.segs.ds
  | .fs => s.segs.fs
  | .gs => s.segs.gs
  | .hs => s.segs.hs
  | .ts0 => s.segs.ts0
  | .ts1 => s.segs.ts1
  | .ls => 0
  | .ms => 0

/-- Whether an entry of `SegCheck` denies an access. -/
def SegDeny.denies (d : SegDeny) (seg : Seg) (ea : Word) (n : Nat) (kind : AccessKind) : Bool :=
  decide (d.seg = seg) && decide (d.lo ≤ ea) && decide (ea ≤ d.hi) && decide (d.n = n) && decide (d.kind = kind)

/-- `SegCheck(seg, EA, n, kind)` (20_memory.md R138, log 12). -/
def segCheck (s : State) (seg : Seg) (ea : Word) (n : Nat) (kind : AccessKind) : Bool :=
  !(s.params.segDeny.any fun d => SegDeny.denies d seg ea n kind)

/-- `Translate` through a list of entries (20_memory.md R139, log 13). -/
def translateIn : List PageEntry → Word → AccessKind → Option Word
  | [], lin, _ => some lin
  | p :: ps, lin, kind =>
    if p.lo ≤ lin ∧ lin ≤ p.hi ∧ p.kind = kind then p.target.map fun t => t + (lin - p.lo) else translateIn ps lin kind

/-- `Translate(linear, kind)` (20_memory.md R139); `none` is a page fault. -/
def translate (s : State) (lin : Word) (kind : AccessKind) : Option Word :=
  translateIn s.params.pages lin kind

/-- The linear addresses of the bytes of an access, ascending: `SegBase(seg) + EA + i mod 2^32` (20_memory.md R140). -/
def linearAddrs (s : State) (seg : Seg) (ea : Word) (n : Nat) : List Word :=
  (List.range n).map fun i => segBase s seg + ea + BitVec.ofNat 32 i

/-- The physical addresses of a list of linear ones, or a page fault where one of them has none. -/
def translateAll (s : State) (ea : Word) (kind : AccessKind) : List Word → Res (List Nat)
  | [] => .ok []
  | l :: ls =>
    match translate s l kind with
    | none => raise (.pageFault ea kind s.pc)
    | some p => do
      let ps ← translateAll s ea kind ls
      return p.toNat :: ps

/-- `SegCheck`, then `Translate` of each byte, and the physical addresses (20_memory.md R140). -/
def checkedAddrs (s : State) (seg : Seg) (ea : Word) (n : Nat) (kind : AccessKind) : Res (List Nat) := do
  raiseUnless (segCheck s seg ea n kind) (.segFault seg ea s.pc)
  translateAll s ea kind (linearAddrs s seg ea n)

/-- The checks of a data effective address without an access (40_ldstops.md R236): the special memory is refused, then
`SegCheck`, then `Translate` of each byte. -/
def checkData (s : State) (seg : Seg) (ea : Word) (n : Nat) (kind : AccessKind) : Res (List Nat) := do
  refuseUnless (seg != .ms) (.specialMemory s.pc)
  checkedAddrs s seg ea n kind

/-- `misaligned_policy` (20_memory.md R144): under `refuse` an effective address that is no multiple of the size is
refused (log 15). -/
def alignedOk (s : State) (ea : Word) (n : Nat) : Bool :=
  match s.params.misaligned with
  | .split => true
  | .refuse => ea.toNat % n == 0

/-- Whether `SegCheck` admits an access (20_memory.md R138); a load with store check must pass as a store too (R142,
log 37). -/
def segAllows (s : State) (seg : Seg) (ea : Word) (n : Nat) (kind : AccessKind) : Bool :=
  segCheck s seg ea n kind && (kind != .readwrite || segCheck s seg ea n .write)

/-- The physical address of one byte of an access (20_memory.md R139), `none` where it has a page fault; a load with store
check has one also where a store to the byte would (R142, log 37). -/
def physical (s : State) (lin : Word) (kind : AccessKind) : Option Word :=
  if kind = .readwrite ∧ translate s lin .write = none then none else translate s lin kind

/-- The bytes of an access with their physical addresses, taken one by one in ascending order: a byte's page fault, then
whether it lies in the launch memory, then the next byte (20_memory.md R140; the order for a store by log 14). -/
def accessCells (s : State) (ea : Word) (kind : AccessKind) : List Word → Res (List Host.Cell)
  | [] => .ok []
  | l :: ls =>
    match physical s l kind with
    | none => raise (.pageFault ea kind s.pc)
    | some p =>
      match s.mem.lookup p.toNat with
      | none => raise (.stuck p.toNat s.pc)
      | some b => do
        let cs ← accessCells s ea kind ls
        return (p.toNat, b) :: cs

/-- The checks of an access and its bytes (20_memory.md R140, R144): the special memory, the alignment, `SegCheck`, and
then byte by byte. -/
def access (s : State) (seg : Seg) (ea : Word) (n : Nat) (kind : AccessKind) : Res (List Host.Cell) := do
  refuseUnless (seg != .ms) (.specialMemory s.pc)
  refuseUnless (alignedOk s ea n) (.misaligned s.pc)
  raiseUnless (segAllows s seg ea n kind) (.segFault seg ea s.pc)
  accessCells s ea kind (linearAddrs s seg ea n)

/-- `MemRead(seg, EA, n)` asked with `kind` (20_memory.md R140, R142). -/
def memRead (s : State) (seg : Seg) (ea : Word) (n : Nat) (kind : AccessKind) : Res DWord := do
  let cs ← access s seg ea n kind
  return fromBytes (cs.map fun c => c.2)

/-- `MemWrite(seg, EA, n, v)` (20_memory.md R141): every byte is checked before any is written. -/
def memWrite (s : State) (seg : Seg) (ea : Word) (n : Nat) (v : DWord) : Res State := do
  let cs ← access s seg ea n .write
  return s.withMem (storeBytes s.mem (cs.map fun c => c.1) v)

/-- Record the event `Lock(seg, EA, n)` (20_memory.md R146). -/
def recordLock (s : State) (seg : Seg) (ea : Word) (n : Nat) : State :=
  s.withLocks (s.locks ++ [{ seg := seg, ea := ea, n := n }])

/-! ### Fetch -/

/-- The Op at `pc` (10_state.md R40). -/
def fetch (s : State) : Option OpWord :=
  s.program[s.pc]?

/-- Why there is no Op at `pc` (70_reset_and_hazards.md R455, log 4). -/
def endOfRun (s : State) : Refusal :=
  if s.pc = s.program.length then .final s.pc else .pcBeyond s.pc

/-- The program with `w` as its Op number `n`; a gap before it is filled with words of zeros. -/
def placeWord : List OpWord → Nat → OpWord → List OpWord
  | [], 0, w => [w]
  | [], n + 1, w => 0 :: placeWord [] n w
  | _ :: ps, 0, w => w :: ps
  | p :: ps, n + 1, w => p :: placeWord ps n w

end Sys2Proof.Machine
end

