-- ==== Sys2Proof/Machine/Flags.lean ====
section
/-! DEFINITION. The flag computations (41_regops.md R269), which flags a RegOp writes (10_state.md R42), and the
condition codes (42_specops.md R365 to R367). -/

namespace Sys2Proof.Machine

/-- The values a RegOp computes for the six x86 flags (41_regops.md R269). -/
structure FlagValues where
  /-- Overflow. -/
  of : Bool
  /-- Carry or borrow. -/
  cf : Bool
  /-- Zero. -/
  zf : Bool
  /-- Sign. -/
  sf : Bool
  /-- Even parity of the low byte. -/
  pf : Bool
  /-- Auxiliary carry. -/
  af : Bool
  deriving DecidableEq, Repr

/-- A result with its flags. -/
structure Alu (w : Nat) where
  /-- The result. -/
  res : BitVec w
  /-- Its flags. -/
  flags : FlagValues
  deriving DecidableEq, Repr

/-- `PF = ~(res[0]^...^res[7])` (41_regops.md R269). -/
def parity {w : Nat} (r : BitVec w) : Bool :=
  !(r.getLsbD 0 ^^ r.getLsbD 1 ^^ r.getLsbD 2 ^^ r.getLsbD 3 ^^ r.getLsbD 4 ^^ r.getLsbD 5 ^^ r.getLsbD 6 ^^ r.getLsbD 7)

/-- `a + b + c` with the flags of the add group (41_regops.md R269, R270, R276). -/
def aluAdd {w : Nat} (a b : BitVec w) (c : Bool) : Alu w :=
  let r := a + b + BitVec.ofNat w c.toNat
  { res := r
    flags :=
      { of := (a.msb == b.msb) && (r.msb != a.msb)
        cf := decide (2 ^ w ≤ a.toNat + b.toNat + c.toNat)
        zf := r == 0
        sf := r.msb
        pf := parity r
        af := decide (16 ≤ a.toNat % 16 + b.toNat % 16 + c.toNat) } }

/-- `a - b - c` with the flags of the sub group (41_regops.md R269, R277, R281, R287). -/
def aluSub {w : Nat} (a b : BitVec w) (c : Bool) : Alu w :=
  let r := a - b - BitVec.ofNat w c.toNat
  { res := r
    flags :=
      { of := (a.msb != b.msb) && (r.msb != a.msb)
        cf := decide (a.toNat < b.toNat + c.toNat)
        zf := r == 0
        sf := r.msb
        pf := parity r
        af := decide (a.toNat % 16 < b.toNat % 16 + c.toNat) } }

/-- The flags of the logic group (41_regops.md R269): CF and OF 0, AF the free value `af` (log 10). -/
def logicFlags {w : Nat} (r : BitVec w) (af : Bool) : FlagValues :=
  { of := false, cf := false, zf := r == 0, sf := r.msb, pf := parity r, af := af }

/-- The flags the status bits of Ext select (10_state.md R42). -/
def selected (g : ExtGroups) (ext : Ext4) : List FlagName :=
  (if ext.getLsbD 3 then g.g3 else []) ++ (if ext.getLsbD 2 then g.g2 else []) ++
    (if ext.getLsbD 1 then g.g1 else []) ++ (if ext.getLsbD 0 then g.g0 else [])

/-- The flags after a write of the selected ones (41_regops.md R269); "a flag in a group not selected keeps its value". -/
def writeFlags (old : Flags) (sel : List FlagName) (v : FlagValues) : Flags :=
  { of := if sel.contains .of then v.of else old.of
    cf := if sel.contains .cf then v.cf else old.cf
    zf := if sel.contains .zf then v.zf else old.zf
    sf := if sel.contains .sf then v.sf else old.sf
    pf := if sel.contains .pf then v.pf else old.pf
    af := if sel.contains .af then v.af else old.af
    ecf := old.ecf
    ezf := old.ezf }

/-- Whether the status field is one the general arithmetic RegOps admit (41_regops.md R269): SS = 0, or SS = 1 with
Ext[3] = 0. A choice of `ext_groups` that puts ECF or EZF under another bit has no stated value for it (log 23). -/
def statusOk (s : State) : Option Ext4 → Bool
  | none => true
  | some ext =>
    !ext.getLsbD 3 && !(selected s.params.extGroups ext).contains .ecf && !(selected s.params.extGroups ext).contains .ezf

/-- The state with the flags a RegOp writes (41_regops.md R269): none when SS = 0. -/
def applyStatus (s : State) (st : Option Ext4) (v : FlagValues) : State :=
  match st with
  | none => s
  | some ext => s.withFlags (writeFlags s.flags (selected s.params.extGroups ext) v)

/-- The condition of CC[4:1] (42_specops.md R365, R367); those on ECF and EZF and the string conditions are refused. -/
def condTest (s : State) (c : BitVec 4) : Res Bool :=
  match c.toNat with
  | 0 => .ok true
  | 1 | 2 => refuse (.emuFlags s.pc)
  | 3 | 4 | 5 | 6 | 7 => refuse (.stringCond s.pc)
  | 8 => .ok s.flags.of
  | 9 => .ok s.flags.cf
  | 10 => .ok s.flags.zf
  | 11 => .ok (s.flags.cf || s.flags.zf)
  | 12 => .ok s.flags.sf
  | 13 => .ok s.flags.pf
  | 14 => .ok (s.flags.sf ^^ s.flags.of)
  | _ => .ok ((s.flags.sf ^^ s.flags.of) || s.flags.zf)

/-- `cond(cc)` (42_specops.md R366, R367). With `cc0_negates` false the bit CC[0] is without effect (log 38). -/
def cond (s : State) (cc : BitVec 5) : Res Bool := do
  let t ← condTest s (cc.extractLsb' 1 4)
  return if s.params.cc0Negates && cc.getLsbD 0 then !t else t

end Sys2Proof.Machine
end

