-- ==== Sys2Proof/Machine/Operands.lean ====
section
/-! DEFINITION. Environment substitution (30_encoding.md R210), operand values (41_regops.md R261), the effective
address (20_memory.md R135), and the forms a RegOp admits (30_encoding.md R188, 41_regops.md R267, R269, R327). -/

namespace Sys2Proof.Machine

/-! ### Sizes and segments after substitution -/

/-- The size of a RegOp (30_encoding.md R190, R210). -/
def regSize (e : Env) : RegSize → Size
  | .one => .one
  | .two => .two
  | .four => .four
  | .dsize => e.dsize.size
  | .asize => e.asize.size
  | .ssize => e.ssize.size

/-- The size of an LdStOp of Table 2.25 or of a SpecOp (30_encoding.md R177, R198, R210). -/
def intSize (e : Env) : IntSize → Size
  | .one => .one
  | .two => .two
  | .four => .four
  | .dsize => e.dsize.size

/-- The size in bytes of an LdStOp of Table 2.26 (30_encoding.md R178, R210); FpDSize is for LDF and STF only. -/
def fpBytes : FpSize → Option Nat
  | .fpDSize => none
  | .two => some 2
  | .four => some 4
  | .eight => some 8

/-- The address size (30_encoding.md R176, R210). -/
def addrSize (e : Env) : AddrSize → EnvSize
  | .asize => e.asize
  | .ssize => e.ssize
  | .four => .four
  | .dsize => e.dsize

/-- The segment (30_encoding.md R175, R210): 11xx is `Env.OS`. -/
def segOf (e : Env) : SegCode → Seg
  | .es => .es
  | .cs => .cs
  | .ss => .ss
  | .ds => .ds
  | .fs => .fs
  | .gs => .gs
  | .hs => .hs
  | .ts0 => .ts0
  | .ts1 => .ts1
  | .ls => .ls
  | .ms => .ms
  | .os _ => e.os.seg

/-! ### Operand values -/

/-- Operand `b` of a RegOp (41_regops.md R261, 30_encoding.md R191). -/
def src2Value (s : State) (sz : Size) : Src2 → BitVec sz.bits
  | .reg n => rd s n sz
  | .imm v => if s.params.imm8Signed then v.signExtend sz.bits else v.setWidth sz.bits

/-- A 4-bit register number (30_encoding.md R171, R205): zero-extended. -/
def reg4 (n : BitVec 4) : RegNum :=
  n.setWidth 5

/-- The scale factor (30_encoding.md R173). -/
def scaleFactor : Scale → Word
  | .x1 => 1
  | .x2 => 2
  | .x4 => 4
  | .x8 => 8

/-- The displacement (20_memory.md R135, 30_encoding.md R174, R180). -/
def dispValue (s : State) : Disp → Word
  | .disp8 v => if s.params.disp8Signed then v.signExtend 32 else v.setWidth 32
  | .env32 => s.env.disp32

/-- The effective address `EA` (20_memory.md R135, R136). -/
def effAddr (s : State) (a : Address) : Word :=
  let ea32 := reg32 s (reg4 a.base) + reg32 s (reg4 a.index) * scaleFactor a.isf + dispValue s a.disp
  match addrSize s.env a.asz with
  | .two => (ea32.extractLsb' 0 16).setWidth 32
  | .four => ea32

/-! ### The forms a RegOp admits -/

/-- RX = 1 is refused (30_encoding.md R188). -/
def rxGuard (s : State) (o : RegOperands) : Res Unit :=
  refuseUnless (!o.rx) (.rxSet s.pc)

/-- Type[0] = 1 in a row of Tables 2.31 and 2.32 is refused under the policy `strict` (41_regops.md R267). -/
def type0Guard (s : State) (t0 : Bool) : Res Unit :=
  refuseUnless (!t0 || s.params.type0 == .ignore) (.type0 s.pc)

/-- SS = 1 outside Table 2.31 is refused (41_regops.md R269). -/
def noStatusGuard (s : State) (ss : Bool) : Res Unit :=
  refuseUnless (!ss) (.flagsUnknown s.pc)

/-- A row without a 1-byte form (30_encoding.md R211). The decoder refuses such a word before. -/
def nonByteGuard (s : State) (o : RegOperands) : Res Unit :=
  refuseUnless (o.dsz != .one) (.illegal .byteSize s.pc)

/-- A 1-byte entry of a row exists at 1 byte only (41_regops.md R264, R265). No word gives it another size. -/
def byteGuard (s : State) (o : RegOperands) : Res Unit :=
  refuseUnless (o.dsz == .one) (.illegal .noEncoding s.pc)

/-- The one-source form: Src2 is the register Src1 (41_regops.md R327). -/
def oneSourceGuard (s : State) (o : RegOperands) : Res Unit :=
  refuseUnless (o.src2 == .reg o.src1) (.operandRole s.pc)

end Sys2Proof.Machine
end

