-- ==== Sys2Proof/Machine/Arith.lean ====
section
/-! DEFINITION. The RegOps of Table 2.31, general arithmetic (41_regops.md R263, R267 to R287). -/

namespace Sys2Proof.Machine

/-! ### Shared forms -/

/-- What a RegOp of Table 2.31 refuses (30_encoding.md R188, 41_regops.md R267, R269). -/
def arithGuard (t0 : Bool) (st : Option Ext4) (o : RegOperands) (s : State) : Res Unit := do
  rxGuard s o
  type0Guard s t0
  refuseUnless (statusOk s st) (.flagsUnknown s.pc)

/-- An adding or subtracting RegOp (41_regops.md R261, R268, R269): `f` on the operands; `writes` is false for CMP. -/
def arithOp (f : {w : Nat} → BitVec w → BitVec w → Alu w) (writes : Bool) (t0 : Bool) (st : Option Ext4)
    (o : RegOperands) (s : State) : Res State := do
  arithGuard t0 st o s
  let sz := regSize s.env o.dsz
  let r := f (rd s o.src1 sz) (src2Value s sz o.src2)
  let s1 := if writes then wr s o.dest sz r.res else s
  return (applyStatus s1 st r.flags).advance

/-- A logic RegOp (41_regops.md R269): with SS = 1 AF is a free value, drawn whether or not its group is selected. -/
def logicOp (f : {w : Nat} → BitVec w → BitVec w → BitVec w) (t0 : Bool) (st : Option Ext4) (o : RegOperands)
    (s : State) : Res State := do
  arithGuard t0 st o s
  let sz := regSize s.env o.dsz
  let r := f (rd s o.src1 sz) (src2Value s sz o.src2)
  let s1 := wr s o.dest sz r
  let s2 := if st.isSome then s1.drew else s1
  return (applyStatus s2 st (logicFlags r (s.drawn.getLsbD 0))).advance

/-! ### The Ops -/

/-- ADD (41_regops.md R270). -/
def execAdd (t0 : Bool) (st : Option Ext4) (o : RegOperands) (s : State) : Host.Outcome State Fault Refusal :=
  finish (arithOp (fun a b => aluAdd a b false) true t0 st o s)

/-- INC (41_regops.md R271): the assembler's name of `ADD dest, src1, #1` with ss = 0110. -/
def execInc (sz : RegSize) (dest src1 : RegNum) (s : State) : Host.Outcome State Fault Refusal :=
  finish (arithOp (fun a b => aluAdd a b false) true false (some 0b0110#4) ⟨false, sz, dest, src1, .imm 1⟩ s)

/-- CADD (41_regops.md R272): refused. -/
def execCadd (_t0 : Bool) (_st : Option Ext4) (_o : RegOperands) (s : State) : Host.Outcome State Fault Refusal :=
  .refused (.type0 s.pc)

/-- OR (41_regops.md R274). -/
def execOr (t0 : Bool) (st : Option Ext4) (o : RegOperands) (s : State) : Host.Outcome State Fault Refusal :=
  finish (logicOp (fun a b => a ||| b) t0 st o s)

/-- MOV (41_regops.md R273): the assembler's name of `OR dest, t0, src` with SS = 0, at sizes other than 1 byte. -/
def execMov (sz : RegSize) (dest : RegNum) (src2 : Src2) (s : State) : Host.Outcome State Fault Refusal :=
  finish do
    let o : RegOperands := ⟨false, sz, dest, 0b01111#5, src2⟩
    nonByteGuard s o
    logicOp (fun a b => a ||| b) false none o s

/-- EOR (41_regops.md R275): refused. -/
def execEor (_t0 : Bool) (_st : Option Ext4) (_o : RegOperands) (s : State) : Host.Outcome State Fault Refusal :=
  .refused (.type0 s.pc)

/-- ADC (41_regops.md R276). -/
def execAdc (t0 : Bool) (st : Option Ext4) (o : RegOperands) (s : State) : Host.Outcome State Fault Refusal :=
  finish (arithOp (fun a b => aluAdd a b s.flags.cf) true t0 st o s)

/-- SBB (41_regops.md R277). -/
def execSbb (t0 : Bool) (st : Option Ext4) (o : RegOperands) (s : State) : Host.Outcome State Fault Refusal :=
  finish (arithOp (fun a b => aluSub a b s.flags.cf) true t0 st o s)

/-- AND (41_regops.md R278). -/
def execAnd (t0 : Bool) (st : Option Ext4) (o : RegOperands) (s : State) : Host.Outcome State Fault Refusal :=
  finish (logicOp (fun a b => a &&& b) t0 st o s)

/-- EAND (41_regops.md R279): refused. -/
def execEand (_t0 : Bool) (_st : Option Ext4) (_o : RegOperands) (s : State) : Host.Outcome State Fault Refusal :=
  .refused (.noSemantics s.pc)

/-- BAND (41_regops.md R280): refused. -/
def execBand (_t0 : Bool) (_st : Option Ext4) (_o : RegOperands) (s : State) : Host.Outcome State Fault Refusal :=
  .refused (.noSemantics s.pc)

/-- SUB (41_regops.md R281). -/
def execSub (t0 : Bool) (st : Option Ext4) (o : RegOperands) (s : State) : Host.Outcome State Fault Refusal :=
  finish (arithOp (fun a b => aluSub a b false) true t0 st o s)

/-- ESUB (41_regops.md R282): refused. -/
def execEsub (_t0 : Bool) (_st : Option Ext4) (_o : RegOperands) (s : State) : Host.Outcome State Fault Refusal :=
  .refused (.noSemantics s.pc)

/-- DEC (41_regops.md R283): the assembler's name of `SUB dest, src1, #1` with ss = 0110. -/
def execDec (sz : RegSize) (dest src1 : RegNum) (s : State) : Host.Outcome State Fault Refusal :=
  finish (arithOp (fun a b => aluSub a b false) true false (some 0b0110#4) ⟨false, sz, dest, src1, .imm 1⟩ s)

/-- CSUB (41_regops.md R284): refused. -/
def execCsub (_t0 : Bool) (_st : Option Ext4) (_o : RegOperands) (s : State) : Host.Outcome State Fault Refusal :=
  .refused (.noSemantics s.pc)

/-- XOR (41_regops.md R285). -/
def execXor (t0 : Bool) (st : Option Ext4) (o : RegOperands) (s : State) : Host.Outcome State Fault Refusal :=
  finish (logicOp (fun a b => a ^^^ b) t0 st o s)

/-- EXOR (41_regops.md R286): refused. -/
def execExor (_t0 : Bool) (_st : Option Ext4) (_o : RegOperands) (s : State) : Host.Outcome State Fault Refusal :=
  .refused (.noSemantics s.pc)

/-- CMP (41_regops.md R287): the flags of SUB, no register written. -/
def execCmp (t0 : Bool) (st : Option Ext4) (o : RegOperands) (s : State) : Host.Outcome State Fault Refusal :=
  finish (arithOp (fun a b => aluSub a b false) false t0 st o s)

end Sys2Proof.Machine
end

