-- ==== Sys2Proof/Machine/LoadStore.lean ====
section
/-! DEFINITION. The LdOps and StOps (40_ldstops.md). The steps R221 has in common are `segOf`, `effAddr` and the size
functions of Operands.lean; no LdStOp touches a flag (R220). -/

namespace Sys2Proof.Machine

/-! ### Shared forms -/

/-- An integer load (40_ldstops.md R223, R224, R226, R230): the access asks `kind`, of which `readwrite` faults also where a
store would (20_memory.md R142), and a locked one records its event. -/
def loadInt (kind : AccessKind) (locked : Bool) (a : Address) (sz : IntSize) (data : RegNum) (s : State) : Res State := do
  let seg := segOf s.env a.seg
  let ea := effAddr s a
  let z := intSize s.env sz
  let v ← memRead s seg ea z.bytes kind
  let s1 := if locked then recordLock s seg ea z.bytes else s
  return (wr s1 data z (v.setWidth z.bits)).advance

/-- The byte count and the register of an MMX load or store, or the verdict that it has none (30_encoding.md R211). -/
def mmOperands (s : State) (sz : FpSize) (data : RegNum) : Res (Nat × MmSlot) :=
  match fpBytes sz, mmSlotOf s.env data with
  | none, _ => refuse (.illegal .dsz s.pc)
  | some _, none => refuse (.illegal .mmReg s.pc)
  | some n, some r => .ok (n, r)

/-- An MMX or 3D load (40_ldstops.md R227, R231): 8 bytes; 2 and 4 are refused. -/
def loadMm (kind : AccessKind) (locked : Bool) (a : Address) (sz : FpSize) (data : RegNum) (s : State) : Res State := do
  let (n, r) ← mmOperands s sz data
  refuseUnless (n == 8) (.mmxPartialLoad s.pc)
  let seg := segOf s.env a.seg
  let ea := effAddr s a
  let v ← memRead s seg ea n kind
  let s1 := if locked then recordLock s seg ea n else s
  return (setMm s1 r v).advance

/-- The store of an integer Op (40_ldstops.md R232, R234), before `pc` advances. -/
def storeInt (a : Address) (sz : IntSize) (data : RegNum) (s : State) : Res State :=
  let z := intSize s.env sz
  memWrite s (segOf s.env a.seg) (effAddr s a) z.bytes ((rd s data z).setWidth 64)

/-- The check of a data effective address (40_ldstops.md R228, R236): for read, nothing moved. -/
def checkAddress (a : Address) (n : Nat) (s : State) : Res State := do
  let _ ← checkData s (segOf s.env a.seg) (effAddr s a) n .read
  return s.advance

/-! ### The Ops -/

/-- LD (40_ldstops.md R224). -/
def execLd (a : Address) (sz : IntSize) (data : RegNum) (s : State) : Host.Outcome State Fault Refusal :=
  finish (loadInt .read false a sz data s)

/-- LDF (40_ldstops.md R225): refused. -/
def execLdf (_a : Address) (_sz : FpSize) (_data : RegNum) (s : State) : Host.Outcome State Fault Refusal :=
  .refused (.floatingPoint s.pc)

/-- LDST (40_ldstops.md R226, 20_memory.md R142). -/
def execLdst (a : Address) (sz : IntSize) (data : RegNum) (s : State) : Host.Outcome State Fault Refusal :=
  finish (loadInt .readwrite false a sz data s)

/-- LDM (40_ldstops.md R227). -/
def execLdm (a : Address) (sz : FpSize) (data : RegNum) (s : State) : Host.Outcome State Fault Refusal :=
  finish (loadMm .read false a sz data s)

/-- CDAF (40_ldstops.md R228): as CDA at a size of Table 2.26; the flush has no effect here (20_memory.md R154). Data is
ignored (30_encoding.md R179). -/
def execCdaf (a : Address) (sz : FpSize) (_data : RegNum) (s : State) : Host.Outcome State Fault Refusal :=
  match fpBytes sz with
  | none => .refused (.illegal .dsz s.pc)
  | some n => finish (checkAddress a n s)

/-- LDPF (40_ldstops.md R229): only the address computation; nothing is read and nothing faults. -/
def execLdpf (_a : Address) (_sz : IntSize) (_data : RegNum) (s : State) : Host.Outcome State Fault Refusal :=
  .next s.advance

/-- LDSTL (40_ldstops.md R230): as LDST, with the event Lock (20_memory.md R146). -/
def execLdstl (a : Address) (sz : IntSize) (data : RegNum) (s : State) : Host.Outcome State Fault Refusal :=
  finish (loadInt .readwrite true a sz data s)

/-- LDMSTL (40_ldstops.md R231): as LDM for read and write, with the event Lock. -/
def execLdmstl (a : Address) (sz : FpSize) (data : RegNum) (s : State) : Host.Outcome State Fault Refusal :=
  finish (loadMm .readwrite true a sz data s)

/-- ST (40_ldstops.md R232). -/
def execSt (a : Address) (sz : IntSize) (data : RegNum) (s : State) : Host.Outcome State Fault Refusal :=
  finish do
    let s1 ← storeInt a sz data s
    return s1.advance

/-- STF (40_ldstops.md R233): refused. -/
def execStf (_a : Address) (_sz : FpSize) (_data : RegNum) (s : State) : Host.Outcome State Fault Refusal :=
  .refused (.floatingPoint s.pc)

/-- STUPD (40_ldstops.md R234): after the store the base register receives the effective address at the address size. -/
def execStupd (a : Address) (sz : IntSize) (data : RegNum) (s : State) : Host.Outcome State Fault Refusal :=
  finish do
    let s1 ← storeInt a sz data s
    let z := (addrSize s.env a.asz).size
    return (wr s1 (reg4 a.base) z ((effAddr s a).setWidth z.bits)).advance

/-- STM (40_ldstops.md R235): the low bytes of the register. -/
def execStm (a : Address) (sz : FpSize) (data : RegNum) (s : State) : Host.Outcome State Fault Refusal :=
  finish do
    let (n, r) ← mmOperands s sz data
    let s1 ← memWrite s (segOf s.env a.seg) (effAddr s a) n (getMm s r)
    return s1.advance

/-- CDA (40_ldstops.md R236). -/
def execCda (a : Address) (sz : IntSize) (_data : RegNum) (s : State) : Host.Outcome State Fault Refusal :=
  finish (checkAddress a (intSize s.env sz).bytes s)

/-- CIA (40_ldstops.md R237): `SegCheck` for execute; `Translate` is not asked. -/
def execCia (a : Address) (sz : IntSize) (_data : RegNum) (s : State) : Host.Outcome State Fault Refusal :=
  finish do
    let seg := segOf s.env a.seg
    let ea := effAddr s a
    raiseUnless (segCheck s seg ea (intSize s.env sz).bytes .execute) (.segFault seg ea s.pc)
    return s.advance

/-- TIA (40_ldstops.md R238): the model has no TLB. -/
def execTia (_a : Address) (_sz : IntSize) (_data : RegNum) (s : State) : Host.Outcome State Fault Refusal :=
  .next s.advance

/-- LEA (40_ldstops.md R239): the effective address, truncated to the data size. -/
def execLea (a : Address) (sz : IntSize) (data : RegNum) (s : State) : Host.Outcome State Fault Refusal :=
  let z := intSize s.env sz
  .next (wr s data z ((effAddr s a).setWidth z.bits)).advance

end Sys2Proof.Machine
end

