-- ==== Sys2Proof/Machine/SpecOps.lean ====
section
/-! DEFINITION. The SpecOps (42_specops.md), the LIMMOp (43_limmop.md), and the words of no format (30_encoding.md R162).
None writes a status flag (42_specops.md R360). -/

namespace Sys2Proof.Machine

/-- BRCOND (42_specops.md R370): the condition goes to `br`; Type[1:0], DSz, Dest and Imm17 are ignored. -/
def execBrcond (_low : BitVec 2) (o : SpecOperands) (s : State) : Host.Outcome State Fault Refusal :=
  finish do
    let t ← cond s o.cc
    return (s.withBr t).advance

/-- LDDHA (42_specops.md R371): refused. -/
def execLddha (_o : SpecOperands) (s : State) : Host.Outcome State Fault Refusal :=
  .refused (.noSemantics s.pc)

/-- LDDHAB (42_specops.md R372): refused. -/
def execLddhab (_o : SpecOperands) (s : State) : Host.Outcome State Fault Refusal :=
  .refused (.noSemantics s.pc)

/-- LDAHA (42_specops.md R373): refused. -/
def execLdaha (_o : SpecOperands) (s : State) : Host.Outcome State Fault Refusal :=
  .refused (.noSemantics s.pc)

/-- LDAHAB (42_specops.md R374): refused. -/
def execLdahab (_o : SpecOperands) (s : State) : Host.Outcome State Fault Refusal :=
  .refused (.noSemantics s.pc)

/-- `ext_32(Imm17)` (30_encoding.md R199, 42_specops.md R375). -/
def imm17Value (s : State) (v : BitVec 17) : Word :=
  if s.params.imm17Signed then v.signExtend 32 else v.setWidth 32

/-- LDK (42_specops.md R375): 4 bytes only; CC is ignored. -/
def execLdk (o : SpecOperands) (s : State) : Host.Outcome State Fault Refusal :=
  finish do
    refuseUnless (intSize s.env o.dsz == .four) (.ldkSize s.pc)
    return (wr s o.dest .four (imm17Value s o.imm17)).advance

/-- FPOP (42_specops.md R376): refused. -/
def execFpop (_o : SpecOperands) (s : State) : Host.Outcome State Fault Refusal :=
  .refused (.floatingPoint s.pc)

/-- LDKD (42_specops.md R377): refused. -/
def execLdkd (_o : SpecOperands) (s : State) : Host.Outcome State Fault Refusal :=
  .refused (.noSemantics s.pc)

/-- FPOPE (42_specops.md R378): refused. -/
def execFpope (_o : SpecOperands) (s : State) : Host.Outcome State Fault Refusal :=
  .refused (.floatingPoint s.pc)

/-- FAULT (42_specops.md R379): raises `OpFault(Imm17, Type[1:0])`; CC is ignored. -/
def execFault (low : BitVec 2) (o : SpecOperands) (s : State) : Host.Outcome State Fault Refusal :=
  finish (raise (.opFault o.imm17 low s.pc))

/-- LIMM (43_limmop.md R400). -/
def execLimm (dest : BitVec 4) (imm : Word) (s : State) : Host.Outcome State Fault Refusal :=
  .next (wr s (reg4 dest) .four imm).advance

/-- A word of no format (30_encoding.md R162): `Illegal(NoFormat)`. -/
def execNoFormat (_body : BitVec 35) (s : State) : Host.Outcome State Fault Refusal :=
  .refused (.illegal .noFormat s.pc)

end Sys2Proof.Machine
end

