-- ==== Sys2Proof/Machine/Shift.lean ====
section
/-! DEFINITION. The RegOps of Table 2.32, shifts and the MMX row (41_regops.md R264, R288 to R303, R326), and the form of
the RegOps whose function is the parameter `regop_fn`. -/

namespace Sys2Proof.Machine

/-! ### Shared forms -/

/-- What a RegOp of Table 2.32 refuses (30_encoding.md R188, 41_regops.md R267, R269). -/
def shiftGuard (t0 : Bool) (st : Option Ext4) (o : RegOperands) (s : State) : Res Unit := do
  rxGuard s o
  type0Guard s t0
  noStatusGuard s st.isSome

/-- The shift count: the low five bits of operand `b` (41_regops.md R326). -/
def shiftCount {w : Nat} (b : BitVec w) : Nat :=
  (b.extractLsb' 0 5).toNat

/-- A shift: `f` on operand `a` and the count (41_regops.md R288, R290, R296). -/
def shiftOp (f : {w : Nat} → BitVec w → Nat → BitVec w) (t0 : Bool) (st : Option Ext4) (o : RegOperands) (s : State) :
    Res State := do
  shiftGuard t0 st o s
  let sz := regSize s.env o.dsz
  let r := f (rd s o.src1 sz) (shiftCount (src2Value s sz o.src2))
  return (wr s o.dest sz r).advance

/-- An arithmetic RegOp whose function the spec does not state, under `regop_fn` (D15, 93_implementation_defined.md row
12): refused when there is none; else Dest receives a free value, whatever the operands: a divide of R318 to R321 by zero,
or whose quotient overflows, of which the spec says nothing, completes too and raises no fault. DESIGN CHOICE, log 8. -/
def regopFnOp (o : RegOperands) (s : State) : Res State := do
  refuseUnless (s.params.regopFn == .free) (.noSemantics s.pc)
  let sz := regSize s.env o.dsz
  return (wr s.drew o.dest sz (s.drawn.setWidth sz.bits)).advance

/-- A row of Table 2.32 under `regop_fn`, at sizes other than 1 byte. -/
def freeShiftOp (t0 : Bool) (st : Option Ext4) (o : RegOperands) (s : State) : Res State := do
  shiftGuard t0 st o s
  nonByteGuard s o
  regopFnOp o s

/-- A 1-byte entry of Table 2.32 under `regop_fn`. -/
def freeByteShiftOp (t0 : Bool) (st : Option Ext4) (o : RegOperands) (s : State) : Res State := do
  shiftGuard t0 st o s
  byteGuard s o
  regopFnOp o s

/-! ### The Ops -/

/-- SLL (41_regops.md R288, R326). -/
def execSll (t0 : Bool) (st : Option Ext4) (o : RegOperands) (s : State) : Host.Outcome State Fault Refusal :=
  finish (shiftOp (fun a n => a <<< n) t0 st o s)

/-- BLL (41_regops.md R289): refused. -/
def execBll (_t0 : Bool) (_st : Option Ext4) (_o : RegOperands) (s : State) : Host.Outcome State Fault Refusal :=
  .refused (.noSemantics s.pc)

/-- SRL (41_regops.md R290, R326). -/
def execSrl (t0 : Bool) (st : Option Ext4) (o : RegOperands) (s : State) : Host.Outcome State Fault Refusal :=
  finish (shiftOp (fun a n => a >>> n) t0 st o s)

/-- SLC (41_regops.md R291), by `regop_fn` (log 8). -/
def execSlc (t0 : Bool) (st : Option Ext4) (o : RegOperands) (s : State) : Host.Outcome State Fault Refusal :=
  finish (freeShiftOp t0 st o s)

/-- RLC (41_regops.md R292), a second mnemonic of its row (R267), by `regop_fn` (log 8). -/
def execRlc (t0 : Bool) (st : Option Ext4) (o : RegOperands) (s : State) : Host.Outcome State Fault Refusal :=
  finish (freeShiftOp t0 st o s)

/-- SRC (41_regops.md R293), by `regop_fn` (log 8). -/
def execSrc (t0 : Bool) (st : Option Ext4) (o : RegOperands) (s : State) : Host.Outcome State Fault Refusal :=
  finish (freeShiftOp t0 st o s)

/-- RRC (41_regops.md R294), a second mnemonic of its row (R267), by `regop_fn` (log 8). -/
def execRrc (t0 : Bool) (st : Option Ext4) (o : RegOperands) (s : State) : Host.Outcome State Fault Refusal :=
  finish (freeShiftOp t0 st o s)

/-- SLA (41_regops.md R295), both size classes, by `regop_fn` (log 8). -/
def execSla (t0 : Bool) (st : Option Ext4) (o : RegOperands) (s : State) : Host.Outcome State Fault Refusal :=
  finish do
    shiftGuard t0 st o s
    regopFnOp o s

/-- SRA (41_regops.md R296, R326). -/
def execSra (t0 : Bool) (st : Option Ext4) (o : RegOperands) (s : State) : Host.Outcome State Fault Refusal :=
  finish (shiftOp (fun a n => a.sshiftRight n) t0 st o s)

/-- SLD (41_regops.md R297), by `regop_fn` (log 8). -/
def execSld (t0 : Bool) (st : Option Ext4) (o : RegOperands) (s : State) : Host.Outcome State Fault Refusal :=
  finish (freeShiftOp t0 st o s)

/-- RLD (41_regops.md R298), a second mnemonic of its row (R267), by `regop_fn` (log 8). -/
def execRld (t0 : Bool) (st : Option Ext4) (o : RegOperands) (s : State) : Host.Outcome State Fault Refusal :=
  finish (freeShiftOp t0 st o s)

/-- RLS (41_regops.md R299), 1 byte only, by `regop_fn` (log 8). -/
def execRls (t0 : Bool) (st : Option Ext4) (o : RegOperands) (s : State) : Host.Outcome State Fault Refusal :=
  finish (freeByteShiftOp t0 st o s)

/-- SRD (41_regops.md R301): refused, with the whole row 01111 (R267), whatever its fields, before RX, Type[0] and SS are
looked at (DESIGN CHOICE, log 21). -/
def execSrd (_t0 : Bool) (_st : Option Ext4) (_o : RegOperands) (s : State) : Host.Outcome State Fault Refusal :=
  .refused (.noSemantics s.pc)

/-- RRD (41_regops.md R302): refused. -/
def execRrd (_t0 : Bool) (_st : Option Ext4) (_o : RegOperands) (s : State) : Host.Outcome State Fault Refusal :=
  .refused (.noSemantics s.pc)

/-- MMX (41_regops.md R300): refused with the whole row: nothing tells an MMX Op of it from SRD or RRD. -/
def execMmx (_t0 : Bool) (_st : Option Ext4) (_o : RegOperands) (s : State) : Host.Outcome State Fault Refusal :=
  .refused (.noSemantics s.pc)

/-- RRS (41_regops.md R303), 1 byte only, by `regop_fn` (log 8). -/
def execRrs (t0 : Bool) (st : Option Ext4) (o : RegOperands) (s : State) : Host.Outcome State Fault Refusal :=
  finish (freeByteShiftOp t0 st o s)

end Sys2Proof.Machine
end

