-- ==== Sys2Proof/Machine/OtherArith.lean ====
section
/-! DEFINITION. The RegOps of Table 2.33, other arithmetic (41_regops.md R265, R304 to R321, R327). -/

namespace Sys2Proof.Machine

/-! ### Shared forms -/

/-- What a RegOp of Tables 2.33 and 2.34 refuses before its own form: RX, SS = 1, and a 1-byte size where there is none
(30_encoding.md R188, R211, 41_regops.md R269). -/
def specialGuard (ss : Bool) (o : RegOperands) (s : State) : Res Unit := do
  rxGuard s o
  noStatusGuard s ss
  nonByteGuard s o

/-- An extension: `f` on operand `a`, in the one-source form (41_regops.md R327, R304 to R307). -/
def extendOp (f : {w : Nat} → BitVec w → BitVec w) (st : Option Ext4) (o : RegOperands) (s : State) : Res State := do
  specialGuard st.isSome o s
  oneSourceGuard s o
  let sz := regSize s.env o.dsz
  return (wr s o.dest sz (f (rd s o.src1 sz))).advance

/-- A RegOp of Tables 2.33 and 2.34 under `regop_fn` (log 8). -/
def freeOp (ss : Bool) (o : RegOperands) (s : State) : Res State := do
  specialGuard ss o s
  regopFnOp o s

/-- A 1-byte RegOp of Table 2.33 under `regop_fn` (log 8). -/
def freeByteOp (ss : Bool) (o : RegOperands) (s : State) : Res State := do
  rxGuard s o
  noStatusGuard s ss
  byteGuard s o
  regopFnOp o s

/-! ### The Ops -/

/-- ZEXT8 (41_regops.md R304). -/
def execZext8 (st : Option Ext4) (o : RegOperands) (s : State) : Host.Outcome State Fault Refusal :=
  finish (extendOp (fun a => (a.extractLsb' 0 8).setWidth _) st o s)

/-- SEXT8 (41_regops.md R305). -/
def execSext8 (st : Option Ext4) (o : RegOperands) (s : State) : Host.Outcome State Fault Refusal :=
  finish (extendOp (fun a => (a.extractLsb' 0 8).signExtend _) st o s)

/-- ZEXT16 (41_regops.md R306). -/
def execZext16 (st : Option Ext4) (o : RegOperands) (s : State) : Host.Outcome State Fault Refusal :=
  finish (extendOp (fun a => (a.extractLsb' 0 16).setWidth _) st o s)

/-- SEXT16 (41_regops.md R307). -/
def execSext16 (st : Option Ext4) (o : RegOperands) (s : State) : Host.Outcome State Fault Refusal :=
  finish (extendOp (fun a => (a.extractLsb' 0 16).signExtend _) st o s)

/-- RDFLGS (41_regops.md R308), both values of Type[0] (R265), by `regop_fn` (log 8). -/
def execRdflgs (_t0 : Bool) (st : Option Ext4) (o : RegOperands) (s : State) : Host.Outcome State Fault Refusal :=
  finish (freeOp st.isSome o s)

/-- DAA (41_regops.md R311), 1 byte only, by `regop_fn` (log 8). -/
def execDaa (st : Option Ext4) (o : RegOperands) (s : State) : Host.Outcome State Fault Refusal :=
  finish (freeByteOp st.isSome o s)

/-- DAS (41_regops.md R312), 1 byte only, by `regop_fn` (log 8). -/
def execDas (st : Option Ext4) (o : RegOperands) (s : State) : Host.Outcome State Fault Refusal :=
  finish (freeByteOp st.isSome o s)

/-- The form and the effect of MOVcc (41_regops.md R313): Src1 = Dest, else refused; Dest receives `b` when the condition
holds. -/
def movccOp (cc : BitVec 5) (ss : Bool) (o : RegOperands) (s : State) : Res State := do
  specialGuard ss o s
  refuseUnless (o.src1 == o.dest) (.operandRole s.pc)
  let t ← cond s cc
  let sz := regSize s.env o.dsz
  return (if t then wr s o.dest sz (src2Value s sz o.src2) else s).advance

/-- MOVcc (41_regops.md R313). -/
def execMovcc (cc : BitVec 5) (ss : Bool) (o : RegOperands) (s : State) : Host.Outcome State Fault Refusal :=
  finish (movccOp cc ss o s)

/-- MUL1S (41_regops.md R314), by `regop_fn` (log 8). -/
def execMul1s (st : Option Ext4) (o : RegOperands) (s : State) : Host.Outcome State Fault Refusal :=
  finish (freeOp st.isSome o s)

/-- MUL1U (41_regops.md R315), by `regop_fn` (log 8). -/
def execMul1u (st : Option Ext4) (o : RegOperands) (s : State) : Host.Outcome State Fault Refusal :=
  finish (freeOp st.isSome o s)

/-- MULEH (41_regops.md R316), by `regop_fn` (log 8). -/
def execMuleh (st : Option Ext4) (o : RegOperands) (s : State) : Host.Outcome State Fault Refusal :=
  finish (freeOp st.isSome o s)

/-- MULEL (41_regops.md R317), by `regop_fn` (log 8). -/
def execMulel (st : Option Ext4) (o : RegOperands) (s : State) : Host.Outcome State Fault Refusal :=
  finish (freeOp st.isSome o s)

/-- DIV1 (41_regops.md R318), by `regop_fn`: it completes also on a zero divisor and never faults (DESIGN CHOICE, log 8). -/
def execDiv1 (st : Option Ext4) (o : RegOperands) (s : State) : Host.Outcome State Fault Refusal :=
  finish (freeOp st.isSome o s)

/-- DIV2 (41_regops.md R319), by `regop_fn`: it completes also on a zero divisor and never faults (DESIGN CHOICE, log 8). -/
def execDiv2 (st : Option Ext4) (o : RegOperands) (s : State) : Host.Outcome State Fault Refusal :=
  finish (freeOp st.isSome o s)

/-- DIVER (41_regops.md R320), by `regop_fn`: it completes also on a zero divisor and never faults (DESIGN CHOICE, log 8). -/
def execDiver (st : Option Ext4) (o : RegOperands) (s : State) : Host.Outcome State Fault Refusal :=
  finish (freeOp st.isSome o s)

/-- DIVEQ (41_regops.md R321), by `regop_fn`: it completes also on a zero divisor and never faults (DESIGN CHOICE, log 8). -/
def execDiveq (st : Option Ext4) (o : RegOperands) (s : State) : Host.Outcome State Fault Refusal :=
  finish (freeOp st.isSome o s)

end Sys2Proof.Machine
end

