-- ==== Sys2Proof/Machine/Special.lean ====
section
/-! DEFINITION. The RegOps of Table 2.34, special RegOps (41_regops.md R266, R322 to R337), and the unassigned row. -/

namespace Sys2Proof.Machine

/-- The special register a RDxxx or WRxxx names, in the order of its refusals: an undescribed number, a size other than 4
bytes (41_regops.md R322, R332). -/
def srOperand (k : BitVec 5) (ss : Bool) (o : RegOperands) (s : State) : Res SR := do
  specialGuard ss o s
  match srOfNumber k with
  | none => refuse (.unknownSR s.pc)
  | some r => do
    refuseUnless (regSize s.env o.dsz == .four) (.srSize s.pc)
    return r

/-- The effect of RDxxx (41_regops.md R322); Src1 and Src2 are ignored. One free value is drawn for the bits the read
does not fix (10_state.md R49). -/
def rdxxxOp (k : BitVec 5) (ss : Bool) (o : RegOperands) (s : State) : Res State := do
  let r ← srOperand k ss o s
  return (wr s.drew o.dest .four (srReadValue s r s.drawn)).advance

/-- The effect of WRxxx (41_regops.md R332); Dest is ignored. The form is Src1 = Src2, I = 0; a value that sets a
reserved or an action bit is refused. A write of SR29 acts on the numeric-processor state (10_state.md R66). -/
def wrxxxOp (k : BitVec 5) (ss : Bool) (o : RegOperands) (s : State) : Res State := do
  let r ← srOperand k ss o s
  oneSourceGuard s o
  let v : Word := rd s o.src1 .four
  refuseUnless (v &&& srReservedMask r == 0) (.reservedSRBit s.pc)
  refuseUnless (v &&& srActionMask r == 0) (.srAction s.pc)
  let w := srWritten s r v
  return ((s.withSr (s.sr.set r w)).withNp (npAfter s r w)).advance

/-- The bytes of a word in the other order (41_regops.md R324). -/
def swapBytes (a : Word) : Word :=
  a.extractLsb' 0 8 ++ a.extractLsb' 8 8 ++ a.extractLsb' 16 8 ++ a.extractLsb' 24 8

/-- The effect of BSWAP (41_regops.md R324, R327): 4 bytes only, one-source form. -/
def bswapOp (st : Option Ext4) (o : RegOperands) (s : State) : Res State := do
  specialGuard st.isSome o s
  refuseUnless (regSize s.env o.dsz == .four) (.bswapSize s.pc)
  oneSourceGuard s o
  return (wr s o.dest .four (swapBytes (rd s o.src1 .four))).advance

/-! ### The Ops -/

/-- RDxxx (41_regops.md R322). -/
def execRdxxx (k : BitVec 5) (ss : Bool) (o : RegOperands) (s : State) : Host.Outcome State Fault Refusal :=
  finish (rdxxxOp k ss o s)

/-- RDFLG (41_regops.md R323), by `regop_fn` (log 8). -/
def execRdflg (st : Option Ext4) (o : RegOperands) (s : State) : Host.Outcome State Fault Refusal :=
  finish (freeOp st.isSome o s)

/-- BSWAP (41_regops.md R324). -/
def execBswap (st : Option Ext4) (o : RegOperands) (s : State) : Host.Outcome State Fault Refusal :=
  finish (bswapOp st o s)

/-- RDSEG (41_regops.md R325), by `regop_fn` (log 8). -/
def execRdseg (_k : BitVec 5) (ss : Bool) (o : RegOperands) (s : State) : Host.Outcome State Fault Refusal :=
  finish (freeOp ss o s)

/-- WRDR (41_regops.md R330): refused whatever its fields, before RX and SS are looked at (DESIGN CHOICE, log 21). -/
def execWrdr (_st : Option Ext4) (_o : RegOperands) (s : State) : Host.Outcome State Fault Refusal :=
  .refused (.noSemantics s.pc)

/-- WRDL (41_regops.md R331): refused whatever its fields, before RX and SS are looked at (DESIGN CHOICE, log 21). -/
def execWrdl (_st : Option Ext4) (_o : RegOperands) (s : State) : Host.Outcome State Fault Refusal :=
  .refused (.noSemantics s.pc)

/-- WRxxx (41_regops.md R332). -/
def execWrxxx (k : BitVec 5) (ss : Bool) (o : RegOperands) (s : State) : Host.Outcome State Fault Refusal :=
  finish (wrxxxOp k ss o s)

/-- WRIP (41_regops.md R333): refused whatever its fields, before RX and SS are looked at (DESIGN CHOICE, log 21). -/
def execWrip (_st : Option Ext4) (_o : RegOperands) (s : State) : Host.Outcome State Fault Refusal :=
  .refused (.noSemantics s.pc)

/-- WRDLIP (41_regops.md R334): refused whatever its fields, before RX and SS are looked at (DESIGN CHOICE, log 21). -/
def execWrdlip (_st : Option Ext4) (_o : RegOperands) (s : State) : Host.Outcome State Fault Refusal :=
  .refused (.noSemantics s.pc)

/-- CHKS (41_regops.md R335): refused whatever its fields, before RX and SS are looked at (DESIGN CHOICE, log 21). -/
def execChks (_st : Option Ext4) (_o : RegOperands) (s : State) : Host.Outcome State Fault Refusal :=
  .refused (.noSemantics s.pc)

/-- WRDH (41_regops.md R336): refused whatever its fields, before RX and SS are looked at (DESIGN CHOICE, log 21). -/
def execWrdh (_st : Option Ext4) (_o : RegOperands) (s : State) : Host.Outcome State Fault Refusal :=
  .refused (.noSemantics s.pc)

/-- The unassigned row 11011 (41_regops.md R337): `Illegal(RegOpType)`. -/
def execUnassigned (_body : BitVec 31) (s : State) : Host.Outcome State Fault Refusal :=
  .refused (.illegal .regOpType s.pc)

end Sys2Proof.Machine
end

