-- ==== Sys2Proof/Machine/Dispatch.lean ====
section
/-! DEFINITION. The meaning of each instruction: one arm per constructor of Instr. -/

namespace Sys2Proof.Machine

def exec (i : Instr) (s : State) : Host.Outcome State Fault Refusal :=
  match i with
  | .ld a sz data => Sys2Proof.Machine.execLd a sz data s
  | .ldf a sz data => Sys2Proof.Machine.execLdf a sz data s
  | .ldst a sz data => Sys2Proof.Machine.execLdst a sz data s
  | .ldm a sz data => Sys2Proof.Machine.execLdm a sz data s
  | .cdaf a sz data => Sys2Proof.Machine.execCdaf a sz data s
  | .ldpf a sz data => Sys2Proof.Machine.execLdpf a sz data s
  | .ldstl a sz data => Sys2Proof.Machine.execLdstl a sz data s
  | .ldmstl a sz data => Sys2Proof.Machine.execLdmstl a sz data s
  | .st a sz data => Sys2Proof.Machine.execSt a sz data s
  | .stf a sz data => Sys2Proof.Machine.execStf a sz data s
  | .stupd a sz data => Sys2Proof.Machine.execStupd a sz data s
  | .stm a sz data => Sys2Proof.Machine.execStm a sz data s
  | .cda a sz data => Sys2Proof.Machine.execCda a sz data s
  | .cia a sz data => Sys2Proof.Machine.execCia a sz data s
  | .tia a sz data => Sys2Proof.Machine.execTia a sz data s
  | .lea a sz data => Sys2Proof.Machine.execLea a sz data s
  | .add t0 st o => Sys2Proof.Machine.execAdd t0 st o s
  | .inc sz dest src1 => Sys2Proof.Machine.execInc sz dest src1 s
  | .cadd t0 st o => Sys2Proof.Machine.execCadd t0 st o s
  | .or t0 st o => Sys2Proof.Machine.execOr t0 st o s
  | .mov sz dest src2 => Sys2Proof.Machine.execMov sz dest src2 s
  | .eor t0 st o => Sys2Proof.Machine.execEor t0 st o s
  | .adc t0 st o => Sys2Proof.Machine.execAdc t0 st o s
  | .sbb t0 st o => Sys2Proof.Machine.execSbb t0 st o s
  | .and t0 st o => Sys2Proof.Machine.execAnd t0 st o s
  | .eand t0 st o => Sys2Proof.Machine.execEand t0 st o s
  | .band t0 st o => Sys2Proof.Machine.execBand t0 st o s
  | .sub t0 st o => Sys2Proof.Machine.execSub t0 st o s
  | .esub t0 st o => Sys2Proof.Machine.execEsub t0 st o s
  | .dec sz dest src1 => Sys2Proof.Machine.execDec sz dest src1 s
  | .csub t0 st o => Sys2Proof.Machine.execCsub t0 st o s
  | .xor t0 st o => Sys2Proof.Machine.execXor t0 st o s
  | .exor t0 st o => Sys2Proof.Machine.execExor t0 st o s
  | .cmp t0 st o => Sys2Proof.Machine.execCmp t0 st o s
  | .sll t0 st o => Sys2Proof.Machine.execSll t0 st o s
  | .bll t0 st o => Sys2Proof.Machine.execBll t0 st o s
  | .srl t0 st o => Sys2Proof.Machine.execSrl t0 st o s
  | .slc t0 st o => Sys2Proof.Machine.execSlc t0 st o s
  | .rlc t0 st o => Sys2Proof.Machine.execRlc t0 st o s
  | .src t0 st o => Sys2Proof.Machine.execSrc t0 st o s
  | .rrc t0 st o => Sys2Proof.Machine.execRrc t0 st o s
  | .sla t0 st o => Sys2Proof.Machine.execSla t0 st o s
  | .sra t0 st o => Sys2Proof.Machine.execSra t0 st o s
  | .sld t0 st o => Sys2Proof.Machine.execSld t0 st o s
  | .rld t0 st o => Sys2Proof.Machine.execRld t0 st o s
  | .rls t0 st o => Sys2Proof.Machine.execRls t0 st o s
  | .srd t0 st o => Sys2Proof.Machine.execSrd t0 st o s
  | .rrd t0 st o => Sys2Proof.Machine.execRrd t0 st o s
  | .mmx t0 st o => Sys2Proof.Machine.execMmx t0 st o s
  | .rrs t0 st o => Sys2Proof.Machine.execRrs t0 st o s
  | .zext8 st o => Sys2Proof.Machine.execZext8 st o s
  | .sext8 st o => Sys2Proof.Machine.execSext8 st o s
  | .zext16 st o => Sys2Proof.Machine.execZext16 st o s
  | .sext16 st o => Sys2Proof.Machine.execSext16 st o s
  | .rdflgs t0 st o => Sys2Proof.Machine.execRdflgs t0 st o s
  | .daa st o => Sys2Proof.Machine.execDaa st o s
  | .das st o => Sys2Proof.Machine.execDas st o s
  | .movcc cc ss o => Sys2Proof.Machine.execMovcc cc ss o s
  | .mul1s st o => Sys2Proof.Machine.execMul1s st o s
  | .mul1u st o => Sys2Proof.Machine.execMul1u st o s
  | .muleh st o => Sys2Proof.Machine.execMuleh st o s
  | .mulel st o => Sys2Proof.Machine.execMulel st o s
  | .div1 st o => Sys2Proof.Machine.execDiv1 st o s
  | .div2 st o => Sys2Proof.Machine.execDiv2 st o s
  | .diver st o => Sys2Proof.Machine.execDiver st o s
  | .diveq st o => Sys2Proof.Machine.execDiveq st o s
  | .rdxxx k ss o => Sys2Proof.Machine.execRdxxx k ss o s
  | .rdflg st o => Sys2Proof.Machine.execRdflg st o s
  | .bswap st o => Sys2Proof.Machine.execBswap st o s
  | .rdseg k ss o => Sys2Proof.Machine.execRdseg k ss o s
  | .wrdr st o => Sys2Proof.Machine.execWrdr st o s
  | .wrdl st o => Sys2Proof.Machine.execWrdl st o s
  | .wrxxx k ss o => Sys2Proof.Machine.execWrxxx k ss o s
  | .wrip st o => Sys2Proof.Machine.execWrip st o s
  | .wrdlip st o => Sys2Proof.Machine.execWrdlip st o s
  | .chks st o => Sys2Proof.Machine.execChks st o s
  | .wrdh st o => Sys2Proof.Machine.execWrdh st o s
  | .brcond low o => Sys2Proof.Machine.execBrcond low o s
  | .lddha o => Sys2Proof.Machine.execLddha o s
  | .lddhab o => Sys2Proof.Machine.execLddhab o s
  | .ldaha o => Sys2Proof.Machine.execLdaha o s
  | .ldahab o => Sys2Proof.Machine.execLdahab o s
  | .ldk o => Sys2Proof.Machine.execLdk o s
  | .fpop o => Sys2Proof.Machine.execFpop o s
  | .ldkd o => Sys2Proof.Machine.execLdkd o s
  | .fpope o => Sys2Proof.Machine.execFpope o s
  | .fault low o => Sys2Proof.Machine.execFault low o s
  | .limm dest imm => Sys2Proof.Machine.execLimm dest imm s
  | .noFormat body => Sys2Proof.Machine.execNoFormat body s
  | .unassigned body => Sys2Proof.Machine.execUnassigned body s

end Sys2Proof.Machine
end

