-- ==== Sys2Proof/Machine/Step.lean ====
section
/-! DEFINITION. One step of the machine (10_state.md R40): fetch the Op at `pc`, decode it, run it. Also the placing of
an Op where the next step fetches. -/

namespace Sys2Proof.Machine

/-- One step. A word the decoder gives no instruction is refused by its verdict (30_encoding.md R211); where there is no
Op the run has ended (70_reset_and_hazards.md R455). -/
def step (s : State) : Host.Outcome State Fault Refusal :=
  match fetch s with
  | none => .refused (endOfRun s)
  | some w =>
    match decode w with
    | .error v => .refused (.illegal v s.pc)
    | .ok i => exec i s

/-- `s` with the Op of bits `w` as the program's Op number `pc` (log 3); its bits are numbered as opcode_table.json
numbers them (log 28). -/
def State.withFetchWord (s : State) (_nbits w : Nat) : State :=
  s.withProgram (placeWord s.program s.pc (BitVec.ofNat 38 w))

end Sys2Proof.Machine
end

