-- ==== Sys2Proof/Safety.lean ====
section
/-! DEFINITION. The terms claims are written in: what an Op leaves unchanged, what a write of a register, of a flag and
of memory means bit by bit, when an access is admitted, the invariant of the machine, and runs. None of it is read by
the machine. -/

namespace Sys2Proof.Machine

/-! ### What an Op leaves unchanged -/

/-- The parts of the state an Op can change beside `pc`. `draws` is the model's own counter of free values (log 9). -/
inductive Part where
  | regs | mmx | flags | br | sr | np | mem | locks | draws
  deriving DecidableEq, Repr

/-- What no Op changes: what the host supplies (00_scope.md R9, R10, 10_state.md R40, R46), and EIP, EFlags.VM, CR0.PE and
the hidden flags (10_state.md R40, R44, R71). -/
structure SameLaunch (s t : State) : Prop where
  segs : t.segs = s.segs
  eip : t.eip = s.eip
  eflagsVM : t.eflagsVM = s.eflagsVM
  cr0PE : t.cr0PE = s.cr0PE
  hidden : t.hidden = s.hidden
  program : t.program = s.program
  env : t.env = s.env
  params : t.params = s.params

/-- From `s` to `t` the machine went to the next Op and changed no part but the named ones: every general register,
every MMX/3D register, every flag, every byte of memory not of a named part reads as before. -/
structure ChangesOnly (parts : List Part) (s t : State) : Prop where
  pc : t.pc = s.pc + 1
  regs : Part.regs ∉ parts → ∀ k, getSlot t k = getSlot s k
  mmx : Part.mmx ∉ parts → ∀ r, getMm t r = getMm s r
  flags : Part.flags ∉ parts → t.flags = s.flags
  br : Part.br ∉ parts → t.br = s.br
  sr : Part.sr ∉ parts → t.sr = s.sr
  np : Part.np ∉ parts → t.np = s.np
  mem : Part.mem ∉ parts → ∀ a, t.mem.lookup a = s.mem.lookup a
  locks : Part.locks ∉ parts → t.locks = s.locks
  draws : Part.draws ∉ parts → t.draws = s.draws
  launch : SameLaunch s t

/-! ### Register writes -/

/-- The storage a register number names at a size (10_state.md R33, R36). -/
def namedSlot (e : Env) (n : RegNum) : Size → Fin 24
  | .one => byteSlot e n
  | .two => slotOf e n
  | .four => slotOf e n

/-- The lowest bit of that storage the name stands for (10_state.md R35, R36). -/
def namedLow (e : Env) (n : RegNum) : Size → Nat
  | .one => if byteIsHigh e n then 8 else 0
  | .two => 0
  | .four => 0

/-- From `s` to `t`, register `n` at size `sz` was written with `v` and no other bit of any general register changed
(10_state.md R34, R36, R37): the bits the name stands for are those of `v`, unless it names t0. -/
def WroteReg (s t : State) (n : RegNum) (sz : Size) (v : BitVec sz.bits) : Prop :=
  ∀ (k : Fin 24) (i : Nat), i < 32 →
    (getSlot t k).getLsbD i =
      if k = namedSlot s.env n sz ∧ k ≠ t0Slot ∧ namedLow s.env n sz ≤ i ∧ i < namedLow s.env n sz + sz.bits then
        v.getLsbD (i - namedLow s.env n sz)
      else (getSlot s k).getLsbD i

/-- From `s` to `t`, the MMX/3D register `r` was written with `v` and no other one changed. -/
def WroteMm (s t : State) (r : MmSlot) (v : DWord) : Prop :=
  getMm t r = v ∧ ∀ q, q ≠ r → getMm t q = getMm s q

/-! ### Flags -/

/-- A flag by its name. -/
def Flags.get (f : Flags) : FlagName → Bool
  | .of => f.of
  | .cf => f.cf
  | .zf => f.zf
  | .sf => f.sf
  | .pf => f.pf
  | .af => f.af
  | .ecf => f.ecf
  | .ezf => f.ezf

/-- From `s` to `t` the flags the status field selects got the values `v` and every other flag kept its own
(10_state.md R42, 41_regops.md R269): none is written when SS = 0. -/
def FlagsAfter (s t : State) (st : Option Ext4) (v : FlagName → Bool) : Prop :=
  ∀ f, t.flags.get f =
    if (match st with | none => false | some ext => decide (f ∈ selected s.params.extGroups ext)) then v f
    else s.flags.get f

/-- Whether an integer lies outside the signed range of `w` bits. -/
def signedOverflow (w : Nat) (x : Int) : Bool :=
  decide (x < -2 ^ (w - 1) ∨ 2 ^ (w - 1) ≤ x)

/-- Even parity of the low byte. -/
def evenParity {w : Nat} (r : BitVec w) : Bool :=
  ((List.range 8).countP fun i => r.getLsbD i) % 2 == 0

/-- The flags of the add group, in integer arithmetic (41_regops.md R269); ECF and EZF have no value. -/
def addFlag {w : Nat} (a b : BitVec w) (c : Bool) (r : BitVec w) : FlagName → Bool
  | .of => signedOverflow w (a.toInt + b.toInt + c.toNat)
  | .cf => decide (2 ^ w ≤ a.toNat + b.toNat + c.toNat)
  | .zf => decide (r.toNat = 0)
  | .sf => decide (r.toInt < 0)
  | .pf => evenParity r
  | .af => decide (16 ≤ a.toNat % 16 + b.toNat % 16 + c.toNat)
  | .ecf => false
  | .ezf => false

/-- The flags of the sub group, in integer arithmetic (41_regops.md R269); ECF and EZF have no value. -/
def subFlag {w : Nat} (a b : BitVec w) (c : Bool) (r : BitVec w) : FlagName → Bool
  | .of => signedOverflow w (a.toInt - b.toInt - c.toNat)
  | .cf => decide (a.toNat < b.toNat + c.toNat)
  | .zf => decide (r.toNat = 0)
  | .sf => decide (r.toInt < 0)
  | .pf => evenParity r
  | .af => decide (a.toNat % 16 < b.toNat % 16 + c.toNat)
  | .ecf => false
  | .ezf => false

/-- The flags of the logic group (41_regops.md R269) when the free value of AF is `af`. -/
def logicFlag {w : Nat} (r : BitVec w) (af : Bool) : FlagName → Bool
  | .of => false
  | .cf => false
  | .zf => decide (r.toNat = 0)
  | .sf => decide (r.toInt < 0)
  | .pf => evenParity r
  | .af => af
  | .ecf => false
  | .ezf => false

/-! ### Memory access -/

/-- The physical address of byte `i` of an access (20_memory.md R140), unless it has a page fault. -/
def byteAddr (s : State) (seg : Seg) (ea : Word) (kind : AccessKind) (i : Nat) : Option Nat :=
  (translate s (segBase s seg + ea + BitVec.ofNat 32 i) kind).map BitVec.toNat

/-- Byte `i` of an access, if it lies in the launch memory. -/
def byteAt (s : State) (seg : Seg) (ea : Word) (kind : AccessKind) (i : Nat) : Option Byte :=
  (byteAddr s seg ea kind i).bind s.mem.lookup

/-- A load with store check does not fault at byte `i` for the store's sake (20_memory.md R142). -/
def storeTranslates (s : State) (seg : Seg) (ea : Word) (kind : AccessKind) (i : Nat) : Prop :=
  kind = .readwrite → byteAddr s seg ea .write i ≠ none

/-- An access that nothing stops (20_memory.md R133, R138 to R140, R144), and, for a load with store check, nothing that
would make a store to the same bytes fault (R142). -/
structure Accessible (s : State) (seg : Seg) (ea : Word) (n : Nat) (kind : AccessKind) : Prop where
  ordinary : seg ≠ .ms
  aligned : alignedOk s ea n = true
  allowed : segCheck s seg ea n kind = true
  mapped : ∀ i, i < n → (byteAt s seg ea kind i).isSome = true
  storeAllowed : kind = .readwrite → segCheck s seg ea n .write = true
  storeMapped : ∀ i, i < n → storeTranslates s seg ea kind i

/-- The value of an access: byte `i` of `v` is byte `i` of the access, the lowest address lowest (20_memory.md R143). -/
def ReadsAs {w : Nat} (s : State) (seg : Seg) (ea : Word) (kind : AccessKind) (n : Nat) (v : BitVec w) : Prop :=
  ∀ i, i < n → byteAt s seg ea kind i = some (v.extractLsb' (8 * i) 8)

/-- From `s` to `t` the `n` low bytes of `v` were stored at an effective address (20_memory.md R141): an address that is
that of no byte of the store reads as before, and the address of byte `i` reads byte `i` of `v`, the last one in
ascending order where two bytes have one address. -/
def StoredAt {w : Nat} (s t : State) (seg : Seg) (ea : Word) (n : Nat) (v : BitVec w) : Prop :=
  (∀ p, (∀ i, i < n → byteAddr s seg ea .write i ≠ some p) → t.mem.lookup p = s.mem.lookup p) ∧
    ∀ i p, i < n → byteAddr s seg ea .write i = some p → (∀ j, i < j → j < n → byteAddr s seg ea .write j ≠ some p) →
      t.mem.lookup p = some (v.extractLsb' (8 * i) 8)

/-- The access an Op makes to memory: segment, effective address, number of bytes and what it asks for
(40_ldstops.md R224 to R235). Ops that make none, and forms refused before it, have none. -/
def dataAccess (i : Instr) (s : State) : Option (Seg × Word × Nat × AccessKind) :=
  match i with
  | .ld a sz _ => some (segOf s.env a.seg, effAddr s a, (intSize s.env sz).bytes, .read)
  | .ldst a sz _ | .ldstl a sz _ => some (segOf s.env a.seg, effAddr s a, (intSize s.env sz).bytes, .readwrite)
  | .st a sz _ | .stupd a sz _ => some (segOf s.env a.seg, effAddr s a, (intSize s.env sz).bytes, .write)
  | .ldm a .eight d => if (mmSlotOf s.env d).isSome then some (segOf s.env a.seg, effAddr s a, 8, .read) else none
  | .ldmstl a .eight d =>
    if (mmSlotOf s.env d).isSome then some (segOf s.env a.seg, effAddr s a, 8, .readwrite) else none
  | .stm a sz d =>
    if (mmSlotOf s.env d).isSome then (fpBytes sz).map fun n => (segOf s.env a.seg, effAddr s a, n, .write) else none
  | _ => none

/-! ### The operand fields of an Op -/

/-- The address fields of an LdStOp (30_encoding.md R170). -/
def ldStAddress : Instr → Option Address
  | .ld a _ _ | .ldf a _ _ | .ldst a _ _ | .ldm a _ _ | .cdaf a _ _ | .ldpf a _ _ | .ldstl a _ _ | .ldmstl a _ _
  | .st a _ _ | .stf a _ _ | .stupd a _ _ | .stm a _ _ | .cda a _ _ | .cia a _ _ | .tia a _ _ | .lea a _ _ => some a
  | _ => none

/-- The operand fields of a RegOp (30_encoding.md R185). -/
def regOperands : Instr → Option RegOperands
  | .add _ _ o | .or _ _ o | .adc _ _ o | .sbb _ _ o | .and _ _ o | .sub _ _ o | .xor _ _ o | .cmp _ _ o
  | .sll _ _ o | .srl _ _ o | .slc _ _ o | .src _ _ o | .sla _ _ o | .sra _ _ o | .sld _ _ o | .rls _ _ o
  | .srd _ _ o | .rrs _ _ o | .zext8 _ o | .sext8 _ o | .zext16 _ o | .sext16 _ o | .rdflgs _ _ o | .daa _ o
  | .das _ o | .movcc _ _ o | .mul1s _ o | .mul1u _ o | .muleh _ o | .mulel _ o | .div1 _ o | .div2 _ o | .diver _ o
  | .diveq _ o | .rdxxx _ _ o | .rdflg _ o | .bswap _ o | .rdseg _ _ o | .wrdr _ o | .wrdl _ o | .wrxxx _ _ o
  | .wrip _ o | .wrdlip _ o | .chks _ o | .wrdh _ o => some o
  | _ => none

/-- The operand fields of a SpecOp (30_encoding.md R195). -/
def specOperands : Instr → Option SpecOperands
  | .brcond _ o | .lddha o | .lddhab o | .ldaha o | .ldahab o | .ldk o | .fpop o | .ldkd o | .fpope o | .fault _ o =>
    some o
  | _ => none

/-- The register number of the data register of an LdStOp (30_encoding.md R170, R179). -/
def ldStData : Instr → Option RegNum
  | .ld _ _ d | .ldf _ _ d | .ldst _ _ d | .ldm _ _ d | .cdaf _ _ d | .ldpf _ _ d | .ldstl _ _ d | .ldmstl _ _ d
  | .st _ _ d | .stf _ _ d | .stupd _ _ d | .stm _ _ d | .cda _ _ d | .cia _ _ d | .tia _ _ d | .lea _ _ d => some d
  | _ => none

/-- The size field of an LdStOp of Table 2.25 (30_encoding.md R177) or of a SpecOp (R198). -/
def intSizeField : Instr → Option IntSize
  | .ld _ z _ | .ldst _ z _ | .ldpf _ z _ | .ldstl _ z _ | .st _ z _ | .stupd _ z _ | .cda _ z _ | .cia _ z _
  | .tia _ z _ | .lea _ z _ => some z
  | .brcond _ o | .lddha o | .lddhab o | .ldaha o | .ldahab o | .ldk o | .fpop o | .ldkd o | .fpope o | .fault _ o =>
    some o.dsz
  | _ => none

/-- The size field of an LdStOp of Table 2.26 (30_encoding.md R178, 90_conflicts.md C4). -/
def fpSizeField : Instr → Option FpSize
  | .ldf _ z _ | .ldm _ z _ | .cdaf _ z _ | .ldmstl _ z _ | .stf _ z _ | .stm _ z _ => some z
  | _ => none

/-! ### Which Ops write what -/

/-- The status field of an Op that can write flags: a RegOp of Table 2.31 (41_regops.md R269). -/
def statusField : Instr → Option Ext4
  | .add _ st _ | .or _ st _ | .adc _ st _ | .sbb _ st _ | .and _ st _ | .sub _ st _ | .xor _ st _ | .cmp _ st _ => st
  | .inc _ _ _ | .dec _ _ _ => some 0b0110#4
  | _ => none

/-- The general register an Op may write, and the size it writes it at. -/
def destOf (i : Instr) (e : Env) : Option (RegNum × Size) :=
  match i with
  | .ld _ sz d | .ldst _ sz d | .ldstl _ sz d | .lea _ sz d => some (d, intSize e sz)
  | .stupd a _ _ => some (reg4 a.base, (addrSize e a.asz).size)
  | .add _ _ o | .or _ _ o | .adc _ _ o | .sbb _ _ o | .and _ _ o | .sub _ _ o | .xor _ _ o
  | .sll _ _ o | .srl _ _ o | .sra _ _ o | .slc _ _ o | .rlc _ _ o | .src _ _ o | .rrc _ _ o | .sla _ _ o
  | .sld _ _ o | .rld _ _ o | .rls _ _ o | .rrs _ _ o | .zext8 _ o | .sext8 _ o | .zext16 _ o | .sext16 _ o
  | .rdflgs _ _ o | .daa _ o | .das _ o | .movcc _ _ o | .mul1s _ o | .mul1u _ o | .muleh _ o | .mulel _ o
  | .div1 _ o | .div2 _ o | .diver _ o | .diveq _ o | .rdflg _ o | .rdseg _ _ o => some (o.dest, regSize e o.dsz)
  | .inc sz d _ | .dec sz d _ => some (d, regSize e sz)
  | .mov sz d _ => some (d, regSize e sz)
  | .rdxxx _ _ o | .bswap _ o => some (o.dest, .four)
  | .ldk o => some (o.dest, .four)
  | .limm d _ => some (reg4 d, .four)
  | _ => none

/-- The Op stores to memory (40_ldstops.md R232, R234, R235). -/
def isStore : Instr → Bool
  | .st _ _ _ | .stupd _ _ _ | .stm _ _ _ => true
  | _ => false

/-- The Op writes an MMX/3D register (40_ldstops.md R227, R231). -/
def writesMm : Instr → Bool
  | .ldm _ _ _ | .ldmstl _ _ _ => true
  | _ => false

/-- The Op records a Lock event (20_memory.md R146). -/
def isLocked : Instr → Bool
  | .ldstl _ _ _ | .ldmstl _ _ _ => true
  | _ => false

/-- The Op writes a special register (41_regops.md R332), and through SR29 the numeric-processor state (10_state.md R66). -/
def writesSr : Instr → Bool
  | .wrxxx _ _ _ => true
  | _ => false

/-- The Op writes `br` (42_specops.md R370). -/
def writesBr : Instr → Bool
  | .brcond _ _ => true
  | _ => false

/-! ### The forms a RegOp admits -/

/-- The tables of the RegOps as far as the form of an Op depends on them: Table 2.31, Table 2.32, Tables 2.33 and 2.34. -/
inductive RegTable where
  | arithmetic | shift | special
  deriving DecidableEq, Repr

/-- What a RegOp that is not refused whatever its fields is made of: its table, Type[0] where the row leaves it open,
whether SS = 1, its operands. -/
structure RegForm where
  table : RegTable
  type0 : Bool
  ss : Bool
  ops : RegOperands
  deriving DecidableEq, Repr

/-- The form of an Op (41_regops.md R340). The assembler names have that of the Op they stand for. -/
def regForm (i : Instr) : Option RegForm :=
  match i with
  | .add t0 st o | .or t0 st o | .adc t0 st o | .sbb t0 st o | .and t0 st o | .sub t0 st o | .xor t0 st o
  | .cmp t0 st o => some ⟨.arithmetic, t0, st.isSome, o⟩
  | .sll t0 st o | .srl t0 st o | .slc t0 st o | .rlc t0 st o | .src t0 st o | .rrc t0 st o | .sla t0 st o
  | .sra t0 st o | .sld t0 st o | .rld t0 st o | .rls t0 st o | .rrs t0 st o => some ⟨.shift, t0, st.isSome, o⟩
  | .zext8 st o | .sext8 st o | .zext16 st o | .sext16 st o | .daa st o | .das st o | .mul1s st o | .mul1u st o
  | .muleh st o | .mulel st o | .div1 st o | .div2 st o | .diver st o | .diveq st o | .rdflg st o | .bswap st o =>
    some ⟨.special, false, st.isSome, o⟩
  | .rdflgs _ st o => some ⟨.special, false, st.isSome, o⟩
  | .movcc _ ss o | .rdxxx _ ss o | .rdseg _ ss o | .wrxxx _ ss o => some ⟨.special, false, ss, o⟩
  | _ => none

/-- Type[0] is admitted in a row of Tables 2.31 and 2.32 (41_regops.md R267). -/
def Type0Admitted (t0 : Bool) (s : State) : Prop :=
  t0 = true → s.params.type0 = .ignore

/-- The status field is admitted on a RegOp of Table 2.31 (41_regops.md R269; for other choices of `ext_groups` log 23). -/
def StatusAdmitted (st : Option Ext4) (s : State) : Prop :=
  ∀ ext, st = some ext → ext.getLsbD 3 = false ∧ FlagName.ecf ∉ selected s.params.extGroups ext ∧
    FlagName.ezf ∉ selected s.params.extGroups ext

/-- The admitted form of a RegOp of Table 2.31. -/
structure ArithAdmitted (t0 : Bool) (st : Option Ext4) (o : RegOperands) (s : State) : Prop where
  rx : o.rx = false
  type0 : Type0Admitted t0 s
  status : StatusAdmitted st s

/-- The admitted form of a RegOp of Table 2.32. -/
structure ShiftAdmitted (t0 : Bool) (st : Option Ext4) (o : RegOperands) (s : State) : Prop where
  rx : o.rx = false
  type0 : Type0Admitted t0 s
  status : st = none

/-- The admitted form of a RegOp of Tables 2.33 and 2.34 that has no 1-byte form. -/
structure SpecialAdmitted (ss : Bool) (o : RegOperands) : Prop where
  rx : o.rx = false
  status : ss = false
  size : o.dsz ≠ .one

/-! ### The invariant -/

/-- What holds of the machine at every Op: the memory has its canonical form, `pc` is at most the length of the program
(10_state.md R40), the storage of t0 holds zero, no special register holds a bit of a field that is not stored
(10_state.md R49), and the numeric-processor state is as SR29 makes it: the Before Exception bit is clear under bit 0, the
hyper flag is asserted under bit 2 = 0, and the upper half of the Tag/Status/Control store is the inverse of bit 22
(10_state.md R66, R69). -/
structure State.Inv (s : State) : Prop where
  memory : Memory.wf s.mem = true
  pc : s.pc ≤ s.program.length
  t0 : s.regs[t0Slot] = 0
  sr : ∀ k, s.sr.get k &&& ~~~(srStoreMask k) = 0
  beforeException : s.sr.sr29.getLsbD 0 = true → s.np.beforeException = false
  hyperFlg : s.sr.sr29.getLsbD 2 = false → s.np.hyperFlg = true
  upperTSCWord : ∀ i, i < 16 → s.np.tagStatusControl.getLsbD (16 + i) = !s.sr.sr29.getLsbD 22

/-! ### Runs -/

/-- `n` steps, each of them to a next state. -/
def stepN : Nat → State → Option State
  | 0, s => some s
  | n + 1, s =>
    match step s with
    | .next t => stepN n t
    | _ => none

/-- The step stops: it has no next state. -/
def stops (s : State) : Bool :=
  match step s with
  | .next _ => false
  | _ => true

/-- A completed run from `s` to `t` (70_reset_and_hazards.md R455): every Op stepped and the step at the end answers
`final`. -/
def CompletesAt (s t : State) : Prop :=
  (∃ n, stepN n s = some t) ∧ step t = .refused (.final t.pc)

end Sys2Proof.Machine
end

