-- ==== Sys2Proof/Certificates/Slice0/Obligations.lean ====
section
/-! DEFINITION. The statements for the provers. A docstring says which rules of spec/ a statement formalises, and where
it rests on a decision of the spec (D<n> of 92_eei_decisions.md) or on a log entry. -/

open Sys2Proof Sys2Proof.Machine

/-! ### Encoding -/

/-- Words of 95_test_vectors.md decode to the Ops those vectors name: `LIMM t1, #0x12345678`, `ADD.4 EAX, EAX, t1,
ss=0111`, `LD.4 t1, LS:[EBX + t0*1 + 8] .4`, `BRCOND ZF`. The last clause is the model's choice (log 27): a word of no
format decodes to a constructor of its own, which `exec` refuses by the verdict `Illegal(NoFormat)` that R162 has the
decoder return. -/
def Obligations.SpecWordsDecode : Prop :=
  decode 0x3123505678#38 = .ok (.limm 0b1000#4 0x12345678#32) ∧
  decode 0x001C800208#38 =
    .ok (.add false (some 0b0111#4) ⟨false, .four, 0b00000#5, 0b00000#5, .reg 0b01000#5⟩) ∧
  decode 0x102A90308F#38 =
    .ok (.ld ⟨.x1, .ls, .four, 0b0011#4, .disp8 8#8, 0b1111#4⟩ .four 0b01000#5) ∧
  decode 0x2850000000#38 = .ok (.brcond 0b00#2 ⟨0b10100#5, .one, 0b00000#5, 0#17⟩) ∧
  decode 0x2000000000#38 = .ok (.noFormat 0#35)

/-- Decoding an encoded well-formed instruction gives it back; an assembler name comes back as the Op it stands for
(30_encoding.md R170, R185, R195, R205; the assembler names by 41_regops.md R271, R273, R283, D14, log 26). -/
def Obligations.DecodeEncode : Prop :=
  ∀ i : Instr, i.wellFormed = true → decode (encode i) = .ok i.canonical

/-- Encoding a decoded word gives the word with its ignored bits cleared: every other bit of a word is read
(30_encoding.md R212). -/
def Obligations.EncodeDecode : Prop :=
  ∀ (w : OpWord) (i : Instr), decode w = .ok i → encode i = w &&& ~~~(ignoredBits w)

/-- "Two words that differ only in ignored bits decode to the same Op" (30_encoding.md R212, D8). -/
def Obligations.IgnoredBitsIgnored : Prop :=
  ∀ w v : OpWord, v &&& ~~~(ignoredBits w) = w &&& ~~~(ignoredBits w) → decode v = decode w

/-- "The format is selected by the top bits" (30_encoding.md R161): bits 37:36 and, for 10, bit 35 are those of the
format of the decoded Op, and 100 is no format. -/
def Obligations.FormatByTopBits : Prop :=
  ∀ (w : OpWord) (i : Instr), decode w = .ok i →
    (w.extractLsb' 36 2 = 0b00#2 ↔ (regOperands i).isSome = true ∨ ∃ body, i = .unassigned body) ∧
    (w.extractLsb' 36 2 = 0b01#2 ↔ (ldStAddress i).isSome = true) ∧
    (w.extractLsb' 35 3 = 0b101#3 ↔ (specOperands i).isSome = true) ∧
    (w.extractLsb' 35 3 = 0b100#3 ↔ ∃ body, i = .noFormat body) ∧
    (w.extractLsb' 36 2 = 0b11#2 ↔ ∃ d imm, i = .limm d imm)

/-- The Op symbols of the Type codes: of the LdStOps (30_encoding.md R172), of the SpecOps (R196), and of the RegOps the
rows of Type[5:1] with Type[0] and the 1-byte entries (the mnemonic columns of 41_regops.md R263 to R266), with the 5-bit
number Type[0] : Ext[3:0] of MOVcc, RDxxx, RDSEG and WRxxx (30_encoding.md R187). The fields of a word that decodes are
the codes of its Op. Inferences the spec marks as its own, which this rests on: the group Op of each row of Tables 2.31 and
2.32 with Type[0] as a field, and so that no word decodes to a mnemonic recorded as an alias (41_regops.md R267, INFERRED,
D14; log 26); Type[0] as the most significant bit of that number (R187, D9); the columns of Tables 2.33 and 2.34, and
so RDFLGS for both values of Type[0] with DAA and DAS as the 1-byte pair (R265, R266, 91_not_in_source.md N12). -/
def Obligations.TypeCodes : Prop :=
  ∀ (w : OpWord) (i : Instr), decode w = .ok i →
    match i with
    | .ld _ _ _ => w.extractLsb' 32 6 = 0b010000#6
    | .ldf _ _ _ => w.extractLsb' 32 6 = 0b010001#6
    | .ldst _ _ _ => w.extractLsb' 32 6 = 0b010010#6
    | .ldm _ _ _ => w.extractLsb' 32 6 = 0b010011#6
    | .cdaf _ _ _ => w.extractLsb' 32 6 = 0b010100#6
    | .ldpf _ _ _ => w.extractLsb' 32 6 = 0b010101#6
    | .ldstl _ _ _ => w.extractLsb' 32 6 = 0b010110#6
    | .ldmstl _ _ _ => w.extractLsb' 32 6 = 0b010111#6
    | .st _ _ _ => w.extractLsb' 32 6 = 0b011000#6
    | .stf _ _ _ => w.extractLsb' 32 6 = 0b011001#6
    | .stupd _ _ _ => w.extractLsb' 32 6 = 0b011010#6
    | .stm _ _ _ => w.extractLsb' 32 6 = 0b011011#6
    | .cda _ _ _ => w.extractLsb' 32 6 = 0b011100#6
    | .cia _ _ _ => w.extractLsb' 32 6 = 0b011101#6
    | .tia _ _ _ => w.extractLsb' 32 6 = 0b011110#6
    | .lea _ _ _ => w.extractLsb' 32 6 = 0b011111#6
    | .brcond low _ => w.extractLsb' 31 7 = 0b10100#5 ++ low
    | .lddha _ => w.extractLsb' 31 7 = 0b1010100#7
    | .lddhab _ => w.extractLsb' 31 7 = 0b1010101#7
    | .ldaha _ => w.extractLsb' 31 7 = 0b1010110#7
    | .ldahab _ => w.extractLsb' 31 7 = 0b1010111#7
    | .ldk _ => w.extractLsb' 31 7 = 0b1011000#7
    | .fpop _ => w.extractLsb' 31 7 = 0b1011001#7
    | .ldkd _ => w.extractLsb' 31 7 = 0b1011010#7
    | .fpope _ => w.extractLsb' 31 7 = 0b1011011#7
    | .fault low _ => w.extractLsb' 31 7 = 0b10111#5 ++ low
    | .limm _ _ => w.extractLsb' 36 2 = 0b11#2
    | .noFormat _ => w.extractLsb' 35 3 = 0b100#3
    | .add t0 _ _ => w.extractLsb' 30 8 = 0b0000000#7 ++ BitVec.ofBool t0
    | .or t0 _ _ => w.extractLsb' 30 8 = 0b0000001#7 ++ BitVec.ofBool t0
    | .adc t0 _ _ => w.extractLsb' 30 8 = 0b0000010#7 ++ BitVec.ofBool t0
    | .sbb t0 _ _ => w.extractLsb' 30 8 = 0b0000011#7 ++ BitVec.ofBool t0
    | .and t0 _ _ => w.extractLsb' 30 8 = 0b0000100#7 ++ BitVec.ofBool t0
    | .sub t0 _ _ => w.extractLsb' 30 8 = 0b0000101#7 ++ BitVec.ofBool t0
    | .xor t0 _ _ => w.extractLsb' 30 8 = 0b0000110#7 ++ BitVec.ofBool t0
    | .cmp t0 _ _ => w.extractLsb' 30 8 = 0b0000111#7 ++ BitVec.ofBool t0
    | .sll t0 _ _ => w.extractLsb' 30 8 = 0b0001000#7 ++ BitVec.ofBool t0
    | .srl t0 _ _ => w.extractLsb' 30 8 = 0b0001001#7 ++ BitVec.ofBool t0
    | .slc t0 _ _ => w.extractLsb' 30 8 = 0b0001010#7 ++ BitVec.ofBool t0
    | .src t0 _ _ => w.extractLsb' 30 8 = 0b0001011#7 ++ BitVec.ofBool t0
    | .sla t0 _ _ => w.extractLsb' 30 8 = 0b0001100#7 ++ BitVec.ofBool t0
    | .sra t0 _ _ => w.extractLsb' 30 8 = 0b0001101#7 ++ BitVec.ofBool t0
    | .sld t0 _ _ => w.extractLsb' 30 8 = 0b0001110#7 ++ BitVec.ofBool t0 ∧ w.extractLsb' 22 3 ≠ 0b000#3
    | .rls t0 _ _ => w.extractLsb' 30 8 = 0b0001110#7 ++ BitVec.ofBool t0 ∧ w.extractLsb' 22 3 = 0b000#3
    | .srd t0 _ _ => w.extractLsb' 30 8 = 0b0001111#7 ++ BitVec.ofBool t0 ∧ w.extractLsb' 22 3 ≠ 0b000#3
    | .rrs t0 _ _ => w.extractLsb' 30 8 = 0b0001111#7 ++ BitVec.ofBool t0 ∧ w.extractLsb' 22 3 = 0b000#3
    | .zext8 _ _ => w.extractLsb' 30 8 = 0b00100000#8
    | .sext8 _ _ => w.extractLsb' 30 8 = 0b00100001#8
    | .zext16 _ _ => w.extractLsb' 30 8 = 0b00100010#8
    | .sext16 _ _ => w.extractLsb' 30 8 = 0b00100011#8
    | .rdflgs t0 _ _ => w.extractLsb' 30 8 = 0b0010010#7 ++ BitVec.ofBool t0 ∧ w.extractLsb' 22 3 ≠ 0b000#3
    | .daa _ _ => w.extractLsb' 30 8 = 0b00100100#8 ∧ w.extractLsb' 22 3 = 0b000#3
    | .das _ _ => w.extractLsb' 30 8 = 0b00100101#8 ∧ w.extractLsb' 22 3 = 0b000#3
    | .movcc k _ _ => w.extractLsb' 31 7 = 0b0010011#7 ∧ k = w.extractLsb' 30 1 ++ w.extractLsb' 26 4
    | .mul1s _ _ => w.extractLsb' 30 8 = 0b00101000#8
    | .mul1u _ _ => w.extractLsb' 30 8 = 0b00101001#8
    | .muleh _ _ => w.extractLsb' 30 8 = 0b00101010#8
    | .mulel _ _ => w.extractLsb' 30 8 = 0b00101011#8
    | .div1 _ _ => w.extractLsb' 30 8 = 0b00101100#8
    | .div2 _ _ => w.extractLsb' 30 8 = 0b00101101#8
    | .diver _ _ => w.extractLsb' 30 8 = 0b00101110#8
    | .diveq _ _ => w.extractLsb' 30 8 = 0b00101111#8
    | .rdxxx k _ _ => w.extractLsb' 31 7 = 0b0011000#7 ∧ k = w.extractLsb' 30 1 ++ w.extractLsb' 26 4
    | .rdflg _ _ => w.extractLsb' 30 8 = 0b00110010#8
    | .bswap _ _ => w.extractLsb' 30 8 = 0b00110011#8
    | .rdseg k _ _ => w.extractLsb' 31 7 = 0b0011010#7 ∧ k = w.extractLsb' 30 1 ++ w.extractLsb' 26 4
    | .unassigned _ => w.extractLsb' 31 7 = 0b0011011#7
    | .wrdr _ _ => w.extractLsb' 30 8 = 0b00111000#8
    | .wrdl _ _ => w.extractLsb' 30 8 = 0b00111001#8
    | .wrxxx k _ _ => w.extractLsb' 31 7 = 0b0011101#7 ∧ k = w.extractLsb' 30 1 ++ w.extractLsb' 26 4
    | .wrip _ _ => w.extractLsb' 30 8 = 0b00111100#8
    | .wrdlip _ _ => w.extractLsb' 30 8 = 0b00111101#8
    | .chks _ _ => w.extractLsb' 30 8 = 0b00111110#8
    | .wrdh _ _ => w.extractLsb' 30 8 = 0b00111111#8
    | .inc _ _ _ | .cadd _ _ _ | .mov _ _ _ | .eor _ _ _ | .eand _ _ _ | .band _ _ _ | .esub _ _ _ | .dec _ _ _
    | .csub _ _ _ | .exor _ _ _ | .bll _ _ _ | .rlc _ _ _ | .rrc _ _ _ | .rld _ _ _ | .rrd _ _ _ | .mmx _ _ _ => False

/-- ISF[1:0]: 00 = 1 X, 01 = 2 X, 10 = 4 X, 11 = 8 X (30_encoding.md R173), in every LdStOp. -/
def Obligations.ScaleFactors : Prop :=
  ∀ (w : OpWord) (i : Instr) (a : Address), decode w = .ok i → ldStAddress i = some a →
    (w.extractLsb' 30 2 = 0b00#2 → scaleFactor a.isf = 1) ∧
    (w.extractLsb' 30 2 = 0b01#2 → scaleFactor a.isf = 2) ∧
    (w.extractLsb' 30 2 = 0b10#2 → scaleFactor a.isf = 4) ∧
    (w.extractLsb' 30 2 = 0b11#2 → scaleFactor a.isf = 8)

/-- The field codes of a word that decodes, and the values they stand for after substitution by `Env` (30_encoding.md
R210, D4): DSz of a RegOp (R190, with its two unassigned codes), of an LdStOp and of a SpecOp (R177, R178, R198), ASz
(R176), Seg (R175, 10_state.md R45; the two codes of TS apart, and OS as `Env.OS`, by R46); and where the other fields
stand (R170, R185, R187, R191, R195, R174). Readings the spec marks as its own, which this rests on: DSz of a RegOp at
bits 24:22 (C1 of 90_conflicts.md), LDMSTL and STM under Table 2.26 with LDM and CDAF (C4, INFERRED), and the substitution
(D4; of ASz, R176 and R210). -/
def Obligations.FieldCodes : Prop :=
  ∀ (w : OpWord) (e : Env),
    (w.extractLsb' 36 2 = 0b00#2 → w.extractLsb' 31 5 ≠ 0b11011#5 →
      w.extractLsb' 22 3 = 0b110#3 ∨ w.extractLsb' 22 3 = 0b111#3 → decode w = .error .dsz) ∧
    ∀ i : Instr, decode w = .ok i →
      (∀ o, regOperands i = some o →
        (∀ p ∈ [(0b000#3, Size.one), (0b001#3, .two), (0b010#3, .four), (0b011#3, e.dsize.size),
          (0b100#3, e.asize.size), (0b101#3, e.ssize.size)], w.extractLsb' 22 3 = p.1 → regSize e o.dsz = p.2) ∧
        o.rx = w.getLsbD 25 ∧ o.dest = w.extractLsb' 17 5 ∧ o.src1 = w.extractLsb' 12 5 ∧
        o.src2 = if w.getLsbD 8 then .imm (w.extractLsb' 0 8) else .reg (w.extractLsb' 0 5)) ∧
      (∀ f, regForm i = some f → f.ss = w.getLsbD 9) ∧
      (∀ ext, statusField i = some ext → ext = w.extractLsb' 26 4) ∧
      (∀ a, ldStAddress i = some a →
        (∀ p ∈ [(0b0000#4, Seg.es), (0b0001#4, .cs), (0b0010#4, .ss), (0b0011#4, .ds), (0b0100#4, .fs), (0b0101#4, .gs),
          (0b0110#4, .hs), (0b1000#4, .ts0), (0b1001#4, .ts1), (0b1010#4, .ls), (0b1011#4, .ms), (0b1100#4, e.os.seg),
          (0b1101#4, e.os.seg), (0b1110#4, e.os.seg), (0b1111#4, e.os.seg)],
          w.extractLsb' 26 4 = p.1 → segOf e a.seg = p.2) ∧
        w.extractLsb' 26 4 ≠ 0b0111#4 ∧
        (∀ p ∈ [(0b00#2, e.asize), (0b01#2, e.ssize), (0b10#2, EnvSize.four), (0b11#2, e.dsize)],
          w.extractLsb' 24 2 = p.1 → addrSize e a.asz = p.2) ∧
        a.base = w.extractLsb' 12 4 ∧ a.index = w.extractLsb' 0 4 ∧
        a.disp = if w.getLsbD 16 then .env32 else .disp8 (w.extractLsb' 4 8)) ∧
      (∀ d, ldStData i = some d → d = w.extractLsb' 17 5) ∧
      (∀ z, intSizeField i = some z →
        ∀ p ∈ [(0b00#2, Size.one), (0b01#2, .two), (0b10#2, .four), (0b11#2, e.dsize.size)],
          w.extractLsb' 22 2 = p.1 → intSize e z = p.2) ∧
      (∀ z, fpSizeField i = some z →
        ∀ p ∈ [(0b00#2, (none : Option Nat)), (0b01#2, some 2), (0b10#2, some 4), (0b11#2, some 8)],
          w.extractLsb' 22 2 = p.1 → fpBytes z = p.2) ∧
      ∀ o, specOperands i = some o →
        o.cc = w.extractLsb' 26 5 ∧ o.dest = w.extractLsb' 17 5 ∧ o.imm17 = w.extractLsb' 0 17

/-- The verdicts of 30_encoding.md R211 on the encodings without a meaning (D8): an unassigned RegOp size, a 1-byte size
in a row that has none, DSz 00 of LDM, LDMSTL, STM and CDAF, the reserved segment code, a register number that names no
MMX/3D register. Of two verdicts on one word DSz 00 comes before the segment code, since R216 makes it part of matching
the row; that the segment code comes before the register number is the model's choice (log 36). -/
def Obligations.IllegalEncodings : Prop :=
  ∀ w : OpWord,
    (w.extractLsb' 36 2 = 0b00#2 → w.extractLsb' 31 5 ≠ 0b11011#5 → w.extractLsb' 23 2 = 0b11#2 →
      decode w = .error .dsz) ∧
    (w.extractLsb' 36 2 = 0b00#2 → w.extractLsb' 22 3 = 0b000#3 →
      w.extractLsb' 31 5 ∈ [0b01010#5, 0b01011#5, 0b10000#5, 0b10001#5, 0b10011#5, 0b10100#5, 0b10101#5, 0b10110#5,
        0b10111#5, 0b11000#5, 0b11001#5, 0b11010#5, 0b11100#5, 0b11101#5, 0b11110#5, 0b11111#5] →
      decode w = .error .byteSize) ∧
    (w.extractLsb' 36 2 = 0b01#2 → w.extractLsb' 22 2 = 0b00#2 →
      w.extractLsb' 32 4 ∈ [0b0011#4, 0b0100#4, 0b0111#4, 0b1011#4] → decode w = .error .dsz) ∧
    (w.extractLsb' 36 2 = 0b01#2 → w.extractLsb' 26 4 = 0b0111#4 →
      ¬(w.extractLsb' 22 2 = 0b00#2 ∧ w.extractLsb' 32 4 ∈ [0b0011#4, 0b0100#4, 0b0111#4, 0b1011#4]) →
      decode w = .error .seg) ∧
    (w.extractLsb' 36 2 = 0b01#2 → w.extractLsb' 26 4 ≠ 0b0111#4 → w.extractLsb' 22 2 ≠ 0b00#2 →
      w.extractLsb' 32 4 ∈ [0b0011#4, 0b0111#4, 0b1011#4] → 9 ≤ (w.extractLsb' 17 5).toNat →
      (w.extractLsb' 17 5).toNat ≤ 23 → decode w = .error .mmReg)

/-! ### The step and the machine as a whole -/

/-- A step runs the decoded Op: when the Op at `pc` decodes to `i`, the step is `exec i`, and to a next state it adds one
to `pc`; an Op of no meaning is refused by its verdict (10_state.md R40, 30_encoding.md R211). -/
def Obligations.StepRunsDecodedOp : Prop :=
  ∀ (s : State) (w : OpWord), s.program[s.pc]? = some w →
    (∀ i, decode w = .ok i → step s = exec i s ∧ ∀ t, step s = .next t → t.pc = s.pc + 1) ∧
    ∀ v, decode w = .error v → step s = .refused (.illegal v s.pc)

/-- A run is final when `pc` equals the length of the program (70_reset_and_hazards.md R455, D24; that the step there
answers the refusal `final` is the model's choice, log 4). -/
def Obligations.FinalAtEndOfProgram : Prop :=
  ∀ s : State, (s.pc = s.program.length ↔ step s = .refused (.final s.pc)) ∧
    (s.program.length < s.pc ↔ step s = .refused (.pcBeyond s.pc))

/-- What reset leaves: `pc` 0, t0 reading zero at 2 and 4 bytes, the base of LS 0 (70_reset_and_hazards.md R451, R453),
and no program and no memory, which the host supplies (R456, log 2, log 3). -/
def Obligations.ResetLeaves : Prop :=
  State.reset.pc = 0 ∧ rd State.reset 0b01111#5 .four = 0 ∧ rd State.reset 0b01111#5 .two = 0 ∧
    segBase State.reset .ls = 0 ∧ State.reset.program = [] ∧ ∀ a, State.reset.mem.lookup a = none

/-- The invariant of the machine holds after reset. That the bits of the special registers that are not stored are 0 there
is the model's choice (log 1), and the numeric-processor state follows the SR29 so chosen (log 32). -/
def Obligations.ResetHasInvariant : Prop :=
  State.Inv State.reset

/-- Every step keeps the invariant: the memory keeps its canonical form, `pc` stays within the program, t0 stays zero,
no special register comes to hold a bit of a field that is not stored (10_state.md R34, R40, R49), and the
numeric-processor state stays as SR29 makes it (R66, R69, log 32). -/
def Obligations.StepKeepsInvariant : Prop :=
  ∀ s t : State, State.Inv s → step s = .next t → State.Inv t

/-- Every Op that completes goes to the Op after it and leaves what the host supplied as it was: no Op changes the
program, the environment, EIP, a segment register or a parameter (10_state.md R40, 00_scope.md R9, 20_memory.md R153). -/
def Obligations.EveryOpAdvancesAndKeepsLaunch : Prop :=
  ∀ (i : Instr) (s t : State), exec i s = .next t → t.pc = s.pc + 1 ∧ SameLaunch s t

/-- Every run ends within as many steps as the program has Ops left, and one that ends `final` has taken exactly that
many: the admitted Ops have no loop (10_state.md R40, 70_reset_and_hazards.md R455; that the step at the end answers the
refusal `final` is the model's choice, log 4). -/
def Obligations.EveryRunEnds : Prop :=
  ∀ s : State, s.pc ≤ s.program.length →
    ∃ (n : Nat) (t : State), n ≤ s.program.length - s.pc ∧ stepN n s = some t ∧ stops t = true ∧
      (step t = .refused (.final t.pc) ↔ n = s.program.length - s.pc)

/-- An Op writes at most one general register, the one its fields name; every other one keeps its value
(41_regops.md R268, 40_ldstops.md R223, R234). -/
def Obligations.OneDestination : Prop :=
  ∀ (i : Instr) (s t : State), exec i s = .next t →
    ∀ k : Fin 24, (∀ n sz, destOf i s.env = some (n, sz) → k ≠ namedSlot s.env n sz) → getSlot t k = getSlot s k

/-- Only a RegOp of Table 2.31 with SS = 1 writes a flag, it writes only those its Ext selects, and no Op ever writes ECF
or EZF (10_state.md R42, 41_regops.md R269, 42_specops.md R367). -/
def Obligations.FlagWriters : Prop :=
  ∀ (i : Instr) (s t : State), exec i s = .next t →
    (statusField i = none → t.flags = s.flags) ∧
    (∀ ext f, statusField i = some ext → f ∉ selected s.params.extGroups ext → t.flags.get f = s.flags.get f) ∧
    t.flags.ecf = s.flags.ecf ∧ t.flags.ezf = s.flags.ezf

/-- Only ST, STUPD and STM change memory, and no Op changes which addresses hold a byte (20_memory.md R140, R141). -/
def Obligations.OnlyStoresWriteMemory : Prop :=
  ∀ (i : Instr) (s t : State), exec i s = .next t →
    (isStore i = false → t.mem = s.mem) ∧ ∀ a, (t.mem.lookup a).isSome = (s.mem.lookup a).isSome

/-- Only LDM and LDMSTL write an MMX/3D register, only WRxxx a special register, and through SR29 the
numeric-processor state, only BRCOND `br`, only LDSTL and LDMSTL record a Lock event, and no event is ever removed
(40_ldstops.md R227, R231, 41_regops.md R332, 10_state.md R66, 42_specops.md R370, 20_memory.md R146). -/
def Obligations.WritersOfTheOtherState : Prop :=
  ∀ (i : Instr) (s t : State), exec i s = .next t →
    (writesMm i = false → t.mm = s.mm ∧ t.mmt1 = s.mmt1) ∧ (writesSr i = false → t.sr = s.sr ∧ t.np = s.np) ∧
    (writesBr i = false → t.br = s.br) ∧ (isLocked i = false → t.locks = s.locks) ∧ s.locks <+: t.locks

/-- Which Ops fault: FAULT raises `OpFault`, only an Op that accesses or checks an address raises `SegFault` or
`PageFault` or is stuck, and a fault names the `pc` of the Op (60_exceptions.md R412, R420, 40_ldstops.md R222). -/
def Obligations.FaultSources : Prop :=
  ∀ (i : Instr) (s : State) (f : Fault), exec i s = .fault f →
    match f with
    | .opFault _ _ pc => pc = s.pc ∧ ∃ low o, i = .fault low o
    | .segFault _ _ pc =>
      pc = s.pc ∧ ((dataAccess i s).isSome = true ∨
        match i with | .cda _ _ _ | .cdaf _ _ _ | .cia _ _ _ => True | _ => False)
    | .pageFault _ _ pc =>
      pc = s.pc ∧ ((dataAccess i s).isSome = true ∨ match i with | .cda _ _ _ | .cdaf _ _ _ => True | _ => False)
    | .stuck _ pc => pc = s.pc ∧ (dataAccess i s).isSome = true

/-! ### Registers -/

/-- t0 reads zero and discards writes at 2 and 4 bytes; at 1 byte its number is t4H (10_state.md R34, R36, D3, D16). -/
def Obligations.ZeroRegister : Prop :=
  ∀ (s : State) (w : Word) (h : BitVec 16),
    rd s 0b01111#5 .four = (0 : Word) ∧ rd s 0b01111#5 .two = (0 : BitVec 16) ∧
    wr s 0b01111#5 .four w = s ∧ wr s 0b01111#5 .two h = s ∧
    rd s 0b01111#5 .one = (reg32 s 0b01011#5).extractLsb' 8 8

/-- A read of a register is of the bits its name stands for at that size, a write changes exactly those bits, and what
was written is read back, unless the name is t0 (10_state.md R33, R34, R36, R37, D3, D16). Which bits those are, for the
numbers below 24, in every environment (the numbers from 24 on are those of EnvironmentRegisters): at 2 and 4 bytes the
low bits of the storage of that number (R31, R33, R35); at 1 byte the table of R36, bits 7:0 of storage `n` for 0 to 3, 8
to 11 and 16 to 19, and bits 15:8 of storage `n - 4` for 4 to 7, 12 to 15 and 20 to 23. -/
def Obligations.RegisterWrite : Prop :=
  ∀ (s : State) (n : RegNum) (sz : Size) (v : BitVec sz.bits),
    WroteReg s (wr s n sz v) n sz v ∧ (namedSlot s.env n sz ≠ t0Slot → rd (wr s n sz v) n sz = v) ∧
    (∀ i, i < sz.bits →
      (rd s n sz).getLsbD i = (getSlot s (namedSlot s.env n sz)).getLsbD (namedLow s.env n sz + i)) ∧
    (∀ k : Fin 24, getSlot s k = if k.val = 15 then 0 else s.regs[k]) ∧ t0Slot.val = 15 ∧
    (n.toNat < 24 → sz = .two ∨ sz = .four → (namedSlot s.env n sz).val = n.toNat ∧ namedLow s.env n sz = 0) ∧
    (n.toNat ∈ [0, 1, 2, 3, 8, 9, 10, 11, 16, 17, 18, 19] →
      (namedSlot s.env n .one).val = n.toNat ∧ namedLow s.env n .one = 0) ∧
    (n.toNat ∈ [4, 5, 6, 7, 12, 13, 14, 15, 20, 21, 22, 23] →
      (namedSlot s.env n .one).val = n.toNat - 4 ∧ namedLow s.env n .one = 8)

/-- Numbers 24 to 27 are the x86 register `Env.reg` and 28 to 31 the x86 register `Env.regm`, at every size
(10_state.md R33, R36, D4). -/
def Obligations.EnvironmentRegisters : Prop :=
  ∀ (s : State) (n : RegNum) (sz : Size) (v : BitVec sz.bits),
    (24 ≤ n.toNat → n.toNat ≤ 27 →
      rd s n sz = rd s (s.env.reg.setWidth 5) sz ∧ wr s n sz v = wr s (s.env.reg.setWidth 5) sz v) ∧
    (28 ≤ n.toNat →
      rd s n sz = rd s (s.env.regm.setWidth 5) sz ∧ wr s n sz v = wr s (s.env.regm.setWidth 5) sz v)

/-! ### RegOps of Table 2.31 -/

/-- ADD and ADC: the sum modulo 2^w goes to Dest, the selected flags to the values of the add group with OF as signed
overflow, and nothing else changes (41_regops.md R261, R268, R269, R270, R276, D15). -/
def Obligations.AddAdcResults : Prop :=
  ∀ (t0 : Bool) (st : Option Ext4) (o : RegOperands) (s : State), ArithAdmitted t0 st o s →
    (∃ (t : State) (r : BitVec (regSize s.env o.dsz).bits), exec (.add t0 st o) s = .next t ∧
      r.toNat = ((rd s o.src1 (regSize s.env o.dsz)).toNat + (src2Value s (regSize s.env o.dsz) o.src2).toNat) %
        2 ^ (regSize s.env o.dsz).bits ∧
      WroteReg s t o.dest (regSize s.env o.dsz) r ∧
      FlagsAfter s t st (addFlag (rd s o.src1 (regSize s.env o.dsz)) (src2Value s (regSize s.env o.dsz) o.src2) false r) ∧
      ChangesOnly [.regs, .flags] s t) ∧
    (∃ (t : State) (r : BitVec (regSize s.env o.dsz).bits), exec (.adc t0 st o) s = .next t ∧
      r.toNat = ((rd s o.src1 (regSize s.env o.dsz)).toNat + (src2Value s (regSize s.env o.dsz) o.src2).toNat +
        s.flags.cf.toNat) % 2 ^ (regSize s.env o.dsz).bits ∧
      WroteReg s t o.dest (regSize s.env o.dsz) r ∧
      FlagsAfter s t st
        (addFlag (rd s o.src1 (regSize s.env o.dsz)) (src2Value s (regSize s.env o.dsz) o.src2) s.flags.cf r) ∧
      ChangesOnly [.regs, .flags] s t)

/-- SUB and SBB: the difference modulo 2^w goes to Dest (said as: adding it back gives operand `a`), the selected flags
to the values of the sub group with OF as signed overflow, and nothing else changes (41_regops.md R261, R268, R269,
R277, R281, D15). -/
def Obligations.SubSbbResults : Prop :=
  ∀ (t0 : Bool) (st : Option Ext4) (o : RegOperands) (s : State), ArithAdmitted t0 st o s →
    (∃ (t : State) (r : BitVec (regSize s.env o.dsz).bits), exec (.sub t0 st o) s = .next t ∧
      (r.toNat + (src2Value s (regSize s.env o.dsz) o.src2).toNat) % 2 ^ (regSize s.env o.dsz).bits =
        (rd s o.src1 (regSize s.env o.dsz)).toNat ∧
      WroteReg s t o.dest (regSize s.env o.dsz) r ∧
      FlagsAfter s t st (subFlag (rd s o.src1 (regSize s.env o.dsz)) (src2Value s (regSize s.env o.dsz) o.src2) false r) ∧
      ChangesOnly [.regs, .flags] s t) ∧
    (∃ (t : State) (r : BitVec (regSize s.env o.dsz).bits), exec (.sbb t0 st o) s = .next t ∧
      (r.toNat + (src2Value s (regSize s.env o.dsz) o.src2).toNat + s.flags.cf.toNat) %
        2 ^ (regSize s.env o.dsz).bits = (rd s o.src1 (regSize s.env o.dsz)).toNat ∧
      WroteReg s t o.dest (regSize s.env o.dsz) r ∧
      FlagsAfter s t st
        (subFlag (rd s o.src1 (regSize s.env o.dsz)) (src2Value s (regSize s.env o.dsz) o.src2) s.flags.cf r) ∧
      ChangesOnly [.regs, .flags] s t)

/-- CMP: the selected flags get the values of the subtraction and nothing else changes, whatever Dest is
(41_regops.md R269, R287, D15). -/
def Obligations.CmpResults : Prop :=
  ∀ (t0 : Bool) (st : Option Ext4) (o : RegOperands) (s : State), ArithAdmitted t0 st o s →
    ∃ (t : State) (r : BitVec (regSize s.env o.dsz).bits), exec (.cmp t0 st o) s = .next t ∧
      (r.toNat + (src2Value s (regSize s.env o.dsz) o.src2).toNat) % 2 ^ (regSize s.env o.dsz).bits =
        (rd s o.src1 (regSize s.env o.dsz)).toNat ∧
      FlagsAfter s t st (subFlag (rd s o.src1 (regSize s.env o.dsz)) (src2Value s (regSize s.env o.dsz) o.src2) false r) ∧
      ChangesOnly [.flags] s t

/-- AND, OR and XOR: the bitwise result goes to Dest; with SS = 1 the selected flags get the values of the logic group,
AF a free value (41_regops.md R269, R274, R278, R285, D15, log 10); nothing else changes but the model's counter of free
values. -/
def Obligations.LogicResults : Prop :=
  ∀ (t0 : Bool) (st : Option Ext4) (o : RegOperands) (s : State), ArithAdmitted t0 st o s →
    ∀ p ∈ [(Instr.and t0 st o, fun x y : Bool => x && y), (Instr.or t0 st o, fun x y => x || y),
      (Instr.xor t0 st o, fun x y => x ^^ y)],
      ∃ (t : State) (r : BitVec (regSize s.env o.dsz).bits) (af : Bool), exec p.1 s = .next t ∧
        (∀ i, i < (regSize s.env o.dsz).bits → r.getLsbD i =
          p.2 ((rd s o.src1 (regSize s.env o.dsz)).getLsbD i) ((src2Value s (regSize s.env o.dsz) o.src2).getLsbD i)) ∧
        WroteReg s t o.dest (regSize s.env o.dsz) r ∧ FlagsAfter s t st (logicFlag r af) ∧
        ChangesOnly [.regs, .flags, .draws] s t

/-- INC and DEC, as the assembler names of ADD and SUB of 1 with ss = 0110: Dest gets Src1 plus or minus 1 modulo 2^w,
and under the default groups CF keeps its value (41_regops.md R271, R283, D14, log 26). -/
def Obligations.IncDecResults : Prop :=
  ∀ (sz : RegSize) (d n : RegNum) (s : State), StatusAdmitted (some 0b0110#4) s →
    (∃ (t : State) (r : BitVec (regSize s.env sz).bits), exec (.inc sz d n) s = .next t ∧
      r.toNat = ((rd s n (regSize s.env sz)).toNat + 1) % 2 ^ (regSize s.env sz).bits ∧
      WroteReg s t d (regSize s.env sz) r ∧
      FlagsAfter s t (some 0b0110#4) (addFlag (rd s n (regSize s.env sz)) 1 false r) ∧
      (s.params.extGroups = Config.defaultExtGroups → t.flags.cf = s.flags.cf) ∧
      ChangesOnly [.regs, .flags] s t) ∧
    (∃ (t : State) (r : BitVec (regSize s.env sz).bits), exec (.dec sz d n) s = .next t ∧
      (r.toNat + 1) % 2 ^ (regSize s.env sz).bits = (rd s n (regSize s.env sz)).toNat ∧
      WroteReg s t d (regSize s.env sz) r ∧
      FlagsAfter s t (some 0b0110#4) (subFlag (rd s n (regSize s.env sz)) 1 false r) ∧
      (s.params.extGroups = Config.defaultExtGroups → t.flags.cf = s.flags.cf) ∧
      ChangesOnly [.regs, .flags] s t)

/-- MOV, as the assembler name of OR with t0: Dest gets the second operand, and nothing else changes
(41_regops.md R273, D14, log 26). -/
def Obligations.MovResult : Prop :=
  ∀ (sz : RegSize) (d : RegNum) (x : Src2) (s : State), sz ≠ .one →
    ∃ t, exec (.mov sz d x) s = .next t ∧ WroteReg s t d (regSize s.env sz) (src2Value s (regSize s.env sz) x) ∧
      ChangesOnly [.regs] s t

/-- The 8-bit immediate of a RegOp is extended to the data size: as a signed number under `imm8_signed`, else as an
unsigned one (30_encoding.md R191, D11). -/
def Obligations.ImmediateOperand : Prop :=
  ∀ (s : State) (sz : Size) (v : BitVec 8),
    (s.params.imm8Signed = true → (src2Value s sz (.imm v)).toInt = v.toInt) ∧
    (s.params.imm8Signed = false → (src2Value s sz (.imm v)).toNat = v.toNat)

/-! ### RegOps of Tables 2.32 to 2.34 -/

/-- SLL, SRL and SRA: operand `a` shifted by the low five bits of operand `b`, as a product, a quotient and a signed
quotient rounded down, goes to Dest, and nothing else changes (41_regops.md R326, R288, R290, R296, D15). -/
def Obligations.ShiftResults : Prop :=
  ∀ (t0 : Bool) (st : Option Ext4) (o : RegOperands) (s : State), ShiftAdmitted t0 st o s →
    (∃ (t : State) (r : BitVec (regSize s.env o.dsz).bits), exec (.sll t0 st o) s = .next t ∧
      r.toNat = (rd s o.src1 (regSize s.env o.dsz)).toNat *
        2 ^ ((src2Value s (regSize s.env o.dsz) o.src2).toNat % 32) % 2 ^ (regSize s.env o.dsz).bits ∧
      WroteReg s t o.dest (regSize s.env o.dsz) r ∧ ChangesOnly [.regs] s t) ∧
    (∃ (t : State) (r : BitVec (regSize s.env o.dsz).bits), exec (.srl t0 st o) s = .next t ∧
      r.toNat = (rd s o.src1 (regSize s.env o.dsz)).toNat /
        2 ^ ((src2Value s (regSize s.env o.dsz) o.src2).toNat % 32) ∧
      WroteReg s t o.dest (regSize s.env o.dsz) r ∧ ChangesOnly [.regs] s t) ∧
    (∃ (t : State) (r : BitVec (regSize s.env o.dsz).bits), exec (.sra t0 st o) s = .next t ∧
      r.toInt = (rd s o.src1 (regSize s.env o.dsz)).toInt /
        2 ^ ((src2Value s (regSize s.env o.dsz) o.src2).toNat % 32) ∧
      WroteReg s t o.dest (regSize s.env o.dsz) r ∧ ChangesOnly [.regs] s t)

/-- The arithmetic RegOps whose function the spec does not state run when `regop_fn` is taken: Dest gets a value nothing
is said of, and nothing else changes but the model's counter of free values (D15, 93_implementation_defined.md row 12;
that the parameter is taken is the model's choice, log 8). -/
def Obligations.FreeFunctionOpsRun : Prop :=
  ∀ (i : Instr) (f : RegForm) (s : State), regForm i = some f → s.params.regopFn = .free → f.ops.rx = false →
    f.ss = false → (f.table = .shift → Type0Admitted f.type0 s) →
    (match i with
      | .sla _ _ _ => True
      | .slc _ _ o | .rlc _ _ o | .src _ _ o | .rrc _ _ o | .sld _ _ o | .rld _ _ o | .rdflgs _ _ o | .mul1s _ o
      | .mul1u _ o | .muleh _ o | .mulel _ o | .div1 _ o | .div2 _ o | .diver _ o | .diveq _ o | .rdflg _ o
      | .rdseg _ _ o => o.dsz ≠ .one
      | .rls _ _ o | .rrs _ _ o | .daa _ o | .das _ o => o.dsz = .one
      | _ => False) →
    ∃ (t : State) (r : BitVec (regSize s.env f.ops.dsz).bits), exec i s = .next t ∧
      WroteReg s t f.ops.dest (regSize s.env f.ops.dsz) r ∧ ChangesOnly [.regs, .draws] s t

/-- The same Ops are refused as without a meaning when `regop_fn` is not taken (41_regops.md R291 to R325, D15). -/
def Obligations.FreeFunctionOpsRefused : Prop :=
  ∀ (i : Instr) (f : RegForm) (s : State), regForm i = some f → s.params.regopFn = .none → f.ops.rx = false →
    f.ss = false → (f.table = .shift → Type0Admitted f.type0 s) →
    (match i with
      | .sla _ _ _ => True
      | .slc _ _ o | .rlc _ _ o | .src _ _ o | .rrc _ _ o | .sld _ _ o | .rld _ _ o | .rdflgs _ _ o | .mul1s _ o
      | .mul1u _ o | .muleh _ o | .mulel _ o | .div1 _ o | .div2 _ o | .diver _ o | .diveq _ o | .rdflg _ o
      | .rdseg _ _ o => o.dsz ≠ .one
      | .rls _ _ o | .rrs _ _ o | .daa _ o | .das _ o => o.dsz = .one
      | _ => False) →
    exec i s = .refused (.noSemantics s.pc)

/-- ZEXT8, ZEXT16, SEXT8 and SEXT16 in the one-source form: the low 8 or 16 bits of the source, as an unsigned or a
signed number, go to Dest, and nothing else changes (41_regops.md R327, R304 to R307, D15). -/
def Obligations.ExtensionResults : Prop :=
  ∀ (st : Option Ext4) (o : RegOperands) (s : State), SpecialAdmitted st.isSome o → o.src2 = .reg o.src1 →
    (∃ (t : State) (r : BitVec (regSize s.env o.dsz).bits), exec (.zext8 st o) s = .next t ∧
      r.toNat = (rd s o.src1 (regSize s.env o.dsz)).toNat % 256 ∧
      WroteReg s t o.dest (regSize s.env o.dsz) r ∧ ChangesOnly [.regs] s t) ∧
    (∃ (t : State) (r : BitVec (regSize s.env o.dsz).bits), exec (.sext8 st o) s = .next t ∧
      r.toInt = Int.bmod (rd s o.src1 (regSize s.env o.dsz)).toNat 256 ∧
      WroteReg s t o.dest (regSize s.env o.dsz) r ∧ ChangesOnly [.regs] s t) ∧
    (∃ (t : State) (r : BitVec (regSize s.env o.dsz).bits), exec (.zext16 st o) s = .next t ∧
      r.toNat = (rd s o.src1 (regSize s.env o.dsz)).toNat % 65536 ∧
      WroteReg s t o.dest (regSize s.env o.dsz) r ∧ ChangesOnly [.regs] s t) ∧
    (∃ (t : State) (r : BitVec (regSize s.env o.dsz).bits), exec (.sext16 st o) s = .next t ∧
      r.toInt = Int.bmod (rd s o.src1 (regSize s.env o.dsz)).toNat 65536 ∧
      WroteReg s t o.dest (regSize s.env o.dsz) r ∧ ChangesOnly [.regs] s t)

/-- MOVcc in the form Src1 = Dest: Dest gets operand `b` when the condition holds and every register keeps its value when
it does not; a condition on ECF, EZF or a string is refused as it is for BRCOND (41_regops.md R313, D9, D15). -/
def Obligations.MovccResult : Prop :=
  ∀ (cc : BitVec 5) (ss : Bool) (o : RegOperands) (s : State), SpecialAdmitted ss o → o.src1 = o.dest →
    (Machine.cond s cc = .ok true → ∃ t, exec (.movcc cc ss o) s = .next t ∧
      WroteReg s t o.dest (regSize s.env o.dsz) (src2Value s (regSize s.env o.dsz) o.src2) ∧
      ChangesOnly [.regs] s t) ∧
    (Machine.cond s cc = .ok false → ∃ t, exec (.movcc cc ss o) s = .next t ∧ ChangesOnly [] s t) ∧
    ((cc.extractLsb' 1 4).toNat = 1 ∨ (cc.extractLsb' 1 4).toNat = 2 →
      exec (.movcc cc ss o) s = .refused (.emuFlags s.pc)) ∧
    (3 ≤ (cc.extractLsb' 1 4).toNat → (cc.extractLsb' 1 4).toNat ≤ 7 →
      exec (.movcc cc ss o) s = .refused (.stringCond s.pc))

/-- The one-source Ops in any other form, and MOVcc with Src1 other than Dest, are refused `operandRole` (41_regops.md
R313, R327). So is WRxxx with Src2 other than the register Src1: R332 admits the one form and names no reason, and the
reason is the model's choice (log 25). -/
def Obligations.OperandRolesRefused : Prop :=
  ∀ (st : Option Ext4) (ss : Bool) (cc k : BitVec 5) (o : RegOperands) (s : State),
    (SpecialAdmitted st.isSome o → o.src2 ≠ .reg o.src1 →
      (∀ i ∈ [Instr.zext8 st o, .sext8 st o, .zext16 st o, .sext16 st o], exec i s = .refused (.operandRole s.pc)) ∧
      (regSize s.env o.dsz = .four → exec (.bswap st o) s = .refused (.operandRole s.pc))) ∧
    (SpecialAdmitted ss o → o.src1 ≠ o.dest → exec (.movcc cc ss o) s = .refused (.operandRole s.pc)) ∧
    (SpecialAdmitted ss o → o.src2 ≠ .reg o.src1 → regSize s.env o.dsz = .four → (srOfNumber k).isSome = true →
      exec (.wrxxx k ss o) s = .refused (.operandRole s.pc))

/-- BSWAP at 4 bytes in the one-source form: byte `i` of the result is byte `3 - i` of the source; at another size it is
refused for its size (41_regops.md R324, R327, D15). The spec orders no two refusals: that the size is answered also where
the form is not the one-source form, which R327 refuses by `OperandRole`, is the model's choice (log 21). -/
def Obligations.BswapResult : Prop :=
  ∀ (st : Option Ext4) (o : RegOperands) (s : State), SpecialAdmitted st.isSome o →
    (regSize s.env o.dsz = .four → o.src2 = .reg o.src1 →
      ∃ (t : State) (r : Word), exec (.bswap st o) s = .next t ∧
        (∀ i, i < 4 → r.extractLsb' (8 * i) 8 = (reg32 s o.src1).extractLsb' (8 * (3 - i)) 8) ∧
        WroteReg s t o.dest .four r ∧ ChangesOnly [.regs] s t) ∧
    (regSize s.env o.dsz ≠ .four → exec (.bswap st o) s = .refused (.bswapSize s.pc))

/-- The refusals by the form of a RegOp: RX = 1; Type[0] = 1 in a row of Tables 2.31 and 2.32 under the policy `strict`;
SS = 1 outside Table 2.31, and inside it with Ext[3] = 1 (30_encoding.md R188, 41_regops.md R267, R269, D8, D10, D14;
the order of the three is the model's, log 21). Under a choice of `ext_groups` that is not the default, a status field
that selects ECF or EZF is refused too, that of INC and DEC among them, which is the model's choice (log 23). -/
def Obligations.RegOpFormRefusals : Prop :=
  (∀ (i : Instr) (f : RegForm) (s : State), regForm i = some f →
    (f.ops.rx = true → exec i s = .refused (.rxSet s.pc)) ∧
    (f.ops.rx = false → f.table ≠ .special → f.type0 = true → s.params.type0 = .strict →
      exec i s = .refused (.type0 s.pc)) ∧
    (f.ops.rx = false → (f.table = .shift → Type0Admitted f.type0 s) → f.table ≠ .arithmetic → f.ss = true →
      exec i s = .refused (.flagsUnknown s.pc)) ∧
    (f.ops.rx = false → f.table = .arithmetic → Type0Admitted f.type0 s →
      (∃ ext, statusField i = some ext ∧ (ext.getLsbD 3 = true ∨ FlagName.ecf ∈ selected s.params.extGroups ext ∨
        FlagName.ezf ∈ selected s.params.extGroups ext)) →
      exec i s = .refused (.flagsUnknown s.pc))) ∧
    ∀ (sz : RegSize) (d n : RegNum) (s : State),
      FlagName.ecf ∈ selected s.params.extGroups 0b0110#4 ∨ FlagName.ezf ∈ selected s.params.extGroups 0b0110#4 →
      exec (.inc sz d n) s = .refused (.flagsUnknown s.pc) ∧ exec (.dec sz d n) s = .refused (.flagsUnknown s.pc)

/-! ### Special registers -/

/-- RDxxx at 4 bytes of a described register: Dest gets a value whose stored fields are those held, but for the two
halves of the time stamp counter, whatever the free value; nothing is said of the other bits; nothing else changes but
the model's counter of free values (10_state.md R49, 41_regops.md R322, 60_exceptions.md R435, D20, D21, D22, log 16, log
17, log 19). That SR0.NF is a stored field, which R50 says and R71 does not, is the model's choice (log 18). -/
def Obligations.RdxxxResult : Prop :=
  ∀ (k : BitVec 5) (ss : Bool) (o : RegOperands) (s : State) (r : SR), SpecialAdmitted ss o → srOfNumber k = some r →
    regSize s.env o.dsz = .four →
    ∃ (t : State) (v : Word), exec (.rdxxx k ss o) s = .next t ∧
      (r ≠ .sr17 → r ≠ .sr18 → v &&& srStoreMask r = s.sr.get r &&& srStoreMask r) ∧
      WroteReg s t o.dest .four v ∧ ChangesOnly [.regs, .draws] s t

/-- WRxxx at 4 bytes of a described register, Src1 = Src2, of a value that sets no reserved and no action bit: the stored
fields get the value's bits, the other bits and the other registers keep theirs, and nothing else changes but, on a write
of SR29, the numeric-processor state: bit 0 = 1 clears the Before Exception bit, bit 2 = 0 asserts the hyper flag, and the
upper half of the Tag/Status/Control store is filled with the inverse of bit 22 (10_state.md R49, R66, R69, 41_regops.md
R332, D22, log 25). That bit 0 = 0 and bit 2 = 1 leave the two as they are is the model's choice (log 32). -/
def Obligations.WrxxxResult : Prop :=
  ∀ (k : BitVec 5) (ss : Bool) (o : RegOperands) (s : State) (r : SR), SpecialAdmitted ss o → srOfNumber k = some r →
    regSize s.env o.dsz = .four → o.src2 = .reg o.src1 → reg32 s o.src1 &&& srReservedMask r = 0 →
    reg32 s o.src1 &&& srActionMask r = 0 →
    ∃ t, exec (.wrxxx k ss o) s = .next t ∧
      t.sr.get r &&& srStoreMask r = reg32 s o.src1 &&& srStoreMask r ∧
      t.sr.get r &&& ~~~(srStoreMask r) = s.sr.get r &&& ~~~(srStoreMask r) ∧
      (∀ q, q ≠ r → t.sr.get q = s.sr.get q) ∧ (r ≠ .sr29 → t.np = s.np) ∧
      (r = .sr29 →
        t.np.beforeException = (s.np.beforeException && !(reg32 s o.src1).getLsbD 0) ∧
        t.np.hyperFlg = (s.np.hyperFlg || !(reg32 s o.src1).getLsbD 2) ∧
        (∀ j, j < 16 → t.np.tagStatusControl.getLsbD j = s.np.tagStatusControl.getLsbD j) ∧
        ∀ j, j < 16 → t.np.tagStatusControl.getLsbD (16 + j) = !(reg32 s o.src1).getLsbD 22) ∧
      ChangesOnly [.sr, .np] s t

/-- The special registers of the seventeen numbers of 10_state.md R48, each with its bits that a write stores, its action
bits and its reserved bits, read off R50 and R52 to R68; and the refusals of RDxxx and WRxxx: a register the source does
not describe, a size other than 4 bytes, a value that sets a reserved bit, a value that sets an action bit (R67, R68,
41_regops.md R322, R332, D22). The spec's own readings in it: that the number of SRn is n (R48, D22), SR17 as the low and
SR18 as the high half of the time stamp counter (R59, D21), and E/W as R/W (D22, log 20); that SR0.NF is stored is the
model's choice (log 18). -/
def Obligations.SpecialRegisterRefusals : Prop :=
  (∀ p ∈ [(0, SR.sr0, 0x0F40C000#32, 0x20BF0000#32, 0x00000000#32),
      (1, .sr1, 0x00000000#32, 0x00000830#32, 0x00000000#32),
      (2, .sr2, 0x00000000#32, 0x00000000#32, 0x00000000#32),
      (3, .sr3, 0x00000000#32, 0x00000000#32, 0x00000000#32),
      (4, .sr4, 0x00000000#32, 0x00000000#32, 0x00000000#32),
      (5, .sr5, 0xFFFFFFFF#32, 0x00000000#32, 0x00000000#32),
      (13, .sr13, 0xFFFFF7FF#32, 0x00000800#32, 0x00000000#32),
      (16, .sr16, 0x00000000#32, 0x00000000#32, 0xFFFFFE00#32),
      (17, .sr17, 0xFFFFFFFF#32, 0x00000000#32, 0x00000000#32),
      (18, .sr18, 0xFFFFFFFF#32, 0x00000000#32, 0x00000000#32),
      (21, .sr21, 0x01FF801E#32, 0x00000000#32, 0xFE007FE1#32),
      (24, .sr24, 0x000007FF#32, 0x00000000#32, 0x7FFFF800#32),
      (25, .sr25, 0x0000FFFF#32, 0x00000000#32, 0x0FFF0000#32),
      (26, .sr26, 0xFFFFFFFF#32, 0x00000000#32, 0x00000000#32),
      (27, .sr27, 0x0000FFFF#32, 0x00000000#32, 0xFFFF0000#32),
      (28, .sr28, 0xFFFFFFFF#32, 0x00000000#32, 0x00000000#32),
      (29, .sr29, 0xFFFFC1CF#32, 0x00000000#32, 0x00003E30#32)],
    srOfNumber (BitVec.ofNat 5 p.1) = some p.2.1 ∧ srStoreMask p.2.1 = p.2.2.1 ∧ srActionMask p.2.1 = p.2.2.2.1 ∧
      srReservedMask p.2.1 = p.2.2.2.2) ∧
  ∀ (k : BitVec 5) (ss : Bool) (o : RegOperands) (s : State), SpecialAdmitted ss o →
    (k.toNat ∈ [6, 7, 8, 9, 10, 11, 12, 14, 15, 19, 20, 22, 23, 30, 31] →
      exec (.rdxxx k ss o) s = .refused (.unknownSR s.pc) ∧ exec (.wrxxx k ss o) s = .refused (.unknownSR s.pc)) ∧
    ∀ r, srOfNumber k = some r →
      (regSize s.env o.dsz ≠ .four →
        exec (.rdxxx k ss o) s = .refused (.srSize s.pc) ∧ exec (.wrxxx k ss o) s = .refused (.srSize s.pc)) ∧
      (regSize s.env o.dsz = .four → o.src2 = .reg o.src1 →
        (reg32 s o.src1 &&& srReservedMask r ≠ 0 →
          exec (.wrxxx k ss o) s = .refused (.reservedSRBit s.pc)) ∧
        (reg32 s o.src1 &&& srReservedMask r = 0 → reg32 s o.src1 &&& srActionMask r ≠ 0 →
          exec (.wrxxx k ss o) s = .refused (.srAction s.pc)))

/-- What WRxxx wrote, RDxxx of the same register reads back, in the stored fields, but for the time stamp counter
(10_state.md R49, 41_regops.md R322, R332, D22, log 19). That SR0.NF is a stored field, which R50 says and R71 does not,
is the model's choice (log 18). -/
def Obligations.SpecialRegisterReadBack : Prop :=
  ∀ (k : BitVec 5) (ssw ssr : Bool) (ow or : RegOperands) (s t : State) (r : SR), srOfNumber k = some r →
    r ≠ .sr17 → r ≠ .sr18 → exec (.wrxxx k ssw ow) s = .next t → SpecialAdmitted ssr or →
    regSize s.env or.dsz = .four →
    ∃ (u : State) (v : Word), exec (.rdxxx k ssr or) t = .next u ∧ WroteReg t u or.dest .four v ∧
      v &&& srStoreMask r = reg32 s ow.src1 &&& srStoreMask r

/-! ### LdOps and StOps -/

/-- LD, LDST and LDSTL of an access nothing stops: Data gets the bytes of the access, the lowest address lowest, at the
data size; LDST and LDSTL ask for read and write and for what a store to the same bytes would ask; LDSTL records its Lock
event; nothing else changes (40_ldstops.md R223, R224, R226, R230, 20_memory.md R140, R142, R143, R146, D5, D15, D16,
D17; that the bytes are those of the translation asked with `readwrite`, where the one asked with `write` differs, is the
model's choice, log 37). -/
def Obligations.IntegerLoads : Prop :=
  ∀ (a : Address) (sz : IntSize) (d : RegNum) (s : State),
    (Accessible s (segOf s.env a.seg) (effAddr s a) (intSize s.env sz).bytes .read →
      ∃ (t : State) (v : BitVec (intSize s.env sz).bits), exec (.ld a sz d) s = .next t ∧
        ReadsAs s (segOf s.env a.seg) (effAddr s a) .read (intSize s.env sz).bytes v ∧
        WroteReg s t d (intSize s.env sz) v ∧ ChangesOnly [.regs] s t) ∧
    (Accessible s (segOf s.env a.seg) (effAddr s a) (intSize s.env sz).bytes .readwrite →
      (∃ (t : State) (v : BitVec (intSize s.env sz).bits), exec (.ldst a sz d) s = .next t ∧
        ReadsAs s (segOf s.env a.seg) (effAddr s a) .readwrite (intSize s.env sz).bytes v ∧
        WroteReg s t d (intSize s.env sz) v ∧ ChangesOnly [.regs] s t) ∧
      (∃ (t : State) (v : BitVec (intSize s.env sz).bits), exec (.ldstl a sz d) s = .next t ∧
        ReadsAs s (segOf s.env a.seg) (effAddr s a) .readwrite (intSize s.env sz).bytes v ∧
        WroteReg s t d (intSize s.env sz) v ∧
        t.locks = s.locks ++ [⟨segOf s.env a.seg, effAddr s a, (intSize s.env sz).bytes⟩] ∧
        ChangesOnly [.regs, .locks] s t))

/-- LDM and LDMSTL at 8 bytes of an access nothing stops: the MMX/3D register gets the bytes of the access; LDMSTL asks
for read and write and for what a store to the same bytes would ask, and records its Lock event; nothing else changes
(40_ldstops.md R227, R231, D15, D17; the translation of the bytes read by log 37). At 2 and 4 bytes both are refused, and
before the access is looked at, also through MS or misaligned, where R227 writes MemRead first: that order of two refusals
is the model's choice (log 21). -/
def Obligations.MmxLoads : Prop :=
  ∀ (a : Address) (d : RegNum) (s : State) (r : MmSlot), mmSlotOf s.env d = some r →
    (Accessible s (segOf s.env a.seg) (effAddr s a) 8 .read →
      ∃ (t : State) (v : DWord), exec (.ldm a .eight d) s = .next t ∧
        ReadsAs s (segOf s.env a.seg) (effAddr s a) .read 8 v ∧ WroteMm s t r v ∧ ChangesOnly [.mmx] s t) ∧
    (Accessible s (segOf s.env a.seg) (effAddr s a) 8 .readwrite →
      ∃ (t : State) (v : DWord), exec (.ldmstl a .eight d) s = .next t ∧
        ReadsAs s (segOf s.env a.seg) (effAddr s a) .readwrite 8 v ∧ WroteMm s t r v ∧
        t.locks = s.locks ++ [⟨segOf s.env a.seg, effAddr s a, 8⟩] ∧ ChangesOnly [.mmx, .locks] s t) ∧
    ∀ sz, sz = .two ∨ sz = .four →
      exec (.ldm a sz d) s = .refused (.mmxPartialLoad s.pc) ∧
        exec (.ldmstl a sz d) s = .refused (.mmxPartialLoad s.pc)

/-- The MMX/3D register a number names: 24 to 31 MM0 to MM7, 0 to 3 the one of `Env.reg`, 4 to 7 the one of `Env.regm`, 8
MMt1, 9 to 23 none (10_state.md R39, D4). -/
def Obligations.MmxRegisterNumbers : Prop :=
  ∀ (e : Env) (n : RegNum),
    (24 ≤ n.toNat → ∃ k : Fin 8, mmSlotOf e n = some (.mm k) ∧ k.val = n.toNat - 24) ∧
    (n.toNat ≤ 3 → ∃ k : Fin 8, mmSlotOf e n = some (.mm k) ∧ k.val = e.reg.toNat) ∧
    (4 ≤ n.toNat → n.toNat ≤ 7 → ∃ k : Fin 8, mmSlotOf e n = some (.mm k) ∧ k.val = e.regm.toNat) ∧
    (n.toNat = 8 → mmSlotOf e n = some .t1) ∧ (9 ≤ n.toNat → n.toNat ≤ 23 → mmSlotOf e n = none)

/-- ST and STUPD of an access nothing stops: the bytes of the access get the bytes of Data at the data size and every
other byte of memory keeps its value; STUPD then writes the effective address to the base register at the address size;
nothing else changes (40_ldstops.md R232, R234, 20_memory.md R141, R143, D5, D15, D27). -/
def Obligations.IntegerStores : Prop :=
  ∀ (a : Address) (sz : IntSize) (d : RegNum) (s : State),
    Accessible s (segOf s.env a.seg) (effAddr s a) (intSize s.env sz).bytes .write →
    (∃ t, exec (.st a sz d) s = .next t ∧
      StoredAt s t (segOf s.env a.seg) (effAddr s a) (intSize s.env sz).bytes (rd s d (intSize s.env sz)) ∧
      ChangesOnly [.mem] s t) ∧
    (∃ t, exec (.stupd a sz d) s = .next t ∧
      StoredAt s t (segOf s.env a.seg) (effAddr s a) (intSize s.env sz).bytes (rd s d (intSize s.env sz)) ∧
      WroteReg s t (reg4 a.base) (addrSize s.env a.asz).size
        ((effAddr s a).setWidth (addrSize s.env a.asz).size.bits) ∧
      ChangesOnly [.mem, .regs] s t)

/-- STM of an access nothing stops, at 2, 4 and 8 bytes: the bytes of the access get the low bytes of the MMX/3D
register, and nothing else changes (40_ldstops.md R235, 20_memory.md R141, D15). -/
def Obligations.MmxStore : Prop :=
  ∀ (a : Address) (sz : FpSize) (n : Nat) (d : RegNum) (s : State) (r : MmSlot), mmSlotOf s.env d = some r →
    (sz, n) ∈ [(FpSize.two, 2), (.four, 4), (.eight, 8)] → Accessible s (segOf s.env a.seg) (effAddr s a) n .write →
    ∃ t, exec (.stm a sz d) s = .next t ∧ StoredAt s t (segOf s.env a.seg) (effAddr s a) n (getMm s r) ∧
      ChangesOnly [.mem] s t

/-- What stops an access, in this order: the special memory and a refused misalignment; `SegCheck`; then byte by byte,
in ascending order, a page fault and a byte outside the launch memory; and then there is no next state (20_memory.md
R133, R138 to R142, R144, 60_exceptions.md R421, D6, D18, D23). A load with store check stops also where a store to the
same bytes would fault (R142). The model's choices in it: the special memory before a misalignment (log 21), alignment
of the effective address under the policy `refuse` (log 15), the order for the bytes of a store (log 14), and what a
load with store check names and where its store's fault comes in the order (log 37). -/
def Obligations.AccessStops : Prop :=
  ∀ (i : Instr) (s : State) (seg : Seg) (ea : Word) (n : Nat) (kind : AccessKind),
    dataAccess i s = some (seg, ea, n, kind) →
    (alignedOk s ea n = true ↔ s.params.misaligned = .split ∨ ea.toNat % n = 0) ∧
    (seg = .ms → exec i s = .refused (.specialMemory s.pc)) ∧
    (seg ≠ .ms → alignedOk s ea n = false → exec i s = .refused (.misaligned s.pc)) ∧
    (seg ≠ .ms → alignedOk s ea n = true →
      segCheck s seg ea n kind = false ∨ kind = .readwrite ∧ segCheck s seg ea n .write = false →
      exec i s = .fault (.segFault seg ea s.pc)) ∧
    (seg ≠ .ms → alignedOk s ea n = true → segCheck s seg ea n kind = true →
      (kind = .readwrite → segCheck s seg ea n .write = true) →
      ∀ j, j < n → (∀ m, m < j → byteAt s seg ea kind m ≠ none ∧ storeTranslates s seg ea kind m) →
        (byteAddr s seg ea kind j = none ∨ ¬storeTranslates s seg ea kind j →
          exec i s = .fault (.pageFault ea kind s.pc)) ∧
        ∀ p, byteAddr s seg ea kind j = some p → storeTranslates s seg ea kind j → s.mem.lookup p = none →
          exec i s = .fault (.stuck p s.pc))

/-- Memory under the defaults: any alignment admitted (20_memory.md R144, D6), every access admitted (R138, D18), the
translation the identity (R139, D18). Then an access of any kind through a segment other than MS, whose bytes at segment
base plus effective address plus `i` modulo 2^32 are in the launch memory, is one nothing stops (R133, R140), and those are
the addresses of its bytes; an ST of such bytes stores Data there, and an LD at the same address at once after it gives
the register the value the ST stored (R140, R141, R143, R151, D5, D17). The base is 0 for LS and the register's own for
the others (R137, 10_state.md R45, R46, D18). -/
def Obligations.StoreThenLoad : Prop :=
  ∀ s : State,
    segBase s .ls = 0 ∧ segBase s .es = s.segs.es ∧ segBase s .cs = s.segs.cs ∧ segBase s .ss = s.segs.ss ∧
    segBase s .ds = s.segs.ds ∧ segBase s .fs = s.segs.fs ∧ segBase s .gs = s.segs.gs ∧ segBase s .hs = s.segs.hs ∧
    segBase s .ts0 = s.segs.ts0 ∧ segBase s .ts1 = s.segs.ts1 ∧
    (s.params.misaligned = .split → s.params.segDeny = [] → s.params.pages = [] →
      (∀ (seg : Seg) (ea : Word) (n : Nat) (kind : AccessKind), seg ≠ .ms →
        (∀ i, i < n → (s.mem.lookup (segBase s seg + ea + BitVec.ofNat 32 i).toNat).isSome = true) →
        Accessible s seg ea n kind ∧
          ∀ i, byteAddr s seg ea kind i = some (segBase s seg + ea + BitVec.ofNat 32 i).toNat) ∧
      ∀ (a : Address) (sz : IntSize) (d x : RegNum), segOf s.env a.seg ≠ .ms →
        (∀ i, i < (intSize s.env sz).bytes →
          (s.mem.lookup (segBase s (segOf s.env a.seg) + effAddr s a + BitVec.ofNat 32 i).toNat).isSome = true) →
        ∃ t u, exec (.st a sz d) s = .next t ∧ exec (.ld a sz x) t = .next u ∧
          (∀ i, i < (intSize s.env sz).bytes →
            t.mem.lookup (segBase s (segOf s.env a.seg) + effAddr s a + BitVec.ofNat 32 i).toNat =
              some ((rd s d (intSize s.env sz)).extractLsb' (8 * i) 8)) ∧
          ChangesOnly [.mem] s t ∧ WroteReg t u x (intSize s.env sz) (rd s d (intSize s.env sz)) ∧
          ChangesOnly [.regs] t u)

/-- The address checks and the Ops that act as none: CDA and CDAF complete when `SegCheck` and `Translate` admit a read of
the data, CIA when `SegCheck` admits an execute, LDPF and TIA always; nothing changes but `pc` (40_ldstops.md R228, R229,
R236, R237, R238, 20_memory.md R154, D17, D18). That CIA, LDPF and TIA complete through MS too, where the first sentence of
20_memory.md R133 read literally refuses, is the model's choice (log 22). -/
def Obligations.AddressChecksComplete : Prop :=
  ∀ (a : Address) (sz : IntSize) (fz : FpSize) (n : Nat) (d : RegNum) (s : State),
    (segOf s.env a.seg ≠ .ms → segCheck s (segOf s.env a.seg) (effAddr s a) (intSize s.env sz).bytes .read = true →
      (∀ i, i < (intSize s.env sz).bytes → byteAddr s (segOf s.env a.seg) (effAddr s a) .read i ≠ none) →
      ∃ t, exec (.cda a sz d) s = .next t ∧ ChangesOnly [] s t) ∧
    ((fz, n) ∈ [(FpSize.two, 2), (.four, 4), (.eight, 8)] → segOf s.env a.seg ≠ .ms →
      segCheck s (segOf s.env a.seg) (effAddr s a) n .read = true →
      (∀ i, i < n → byteAddr s (segOf s.env a.seg) (effAddr s a) .read i ≠ none) →
      ∃ t, exec (.cdaf a fz d) s = .next t ∧ ChangesOnly [] s t) ∧
    (segCheck s (segOf s.env a.seg) (effAddr s a) (intSize s.env sz).bytes .execute = true →
      ∃ t, exec (.cia a sz d) s = .next t ∧ ChangesOnly [] s t) ∧
    (∃ t, exec (.ldpf a sz d) s = .next t ∧ ChangesOnly [] s t) ∧
    ∃ t, exec (.tia a sz d) s = .next t ∧ ChangesOnly [] s t

/-- What stops an address check: CDA and CDAF of the special memory are refused; a false `SegCheck` is `SegFault`, for CIA
when asked with execute; a byte without a translation is `PageFault`, for CDA and CDAF only (40_ldstops.md R228, R236,
R237, 60_exceptions.md R421, D18). That CIA is asked, and so may fault, through MS too, where the first sentence of
20_memory.md R133 read literally refuses, is the model's choice (log 22). -/
def Obligations.AddressCheckStops : Prop :=
  ∀ (a : Address) (sz : IntSize) (fz : FpSize) (n : Nat) (d : RegNum) (s : State),
    (fz, n) ∈ [(FpSize.two, 2), (.four, 4), (.eight, 8)] →
    (segOf s.env a.seg = .ms → exec (.cda a sz d) s = .refused (.specialMemory s.pc) ∧
      exec (.cdaf a fz d) s = .refused (.specialMemory s.pc)) ∧
    (segOf s.env a.seg ≠ .ms → segCheck s (segOf s.env a.seg) (effAddr s a) (intSize s.env sz).bytes .read = false →
      exec (.cda a sz d) s = .fault (.segFault (segOf s.env a.seg) (effAddr s a) s.pc)) ∧
    (segOf s.env a.seg ≠ .ms → segCheck s (segOf s.env a.seg) (effAddr s a) n .read = false →
      exec (.cdaf a fz d) s = .fault (.segFault (segOf s.env a.seg) (effAddr s a) s.pc)) ∧
    (segCheck s (segOf s.env a.seg) (effAddr s a) (intSize s.env sz).bytes .execute = false →
      exec (.cia a sz d) s = .fault (.segFault (segOf s.env a.seg) (effAddr s a) s.pc)) ∧
    (segOf s.env a.seg ≠ .ms → segCheck s (segOf s.env a.seg) (effAddr s a) (intSize s.env sz).bytes .read = true →
      (∃ i, i < (intSize s.env sz).bytes ∧ byteAddr s (segOf s.env a.seg) (effAddr s a) .read i = none) →
      exec (.cda a sz d) s = .fault (.pageFault (effAddr s a) .read s.pc)) ∧
    (segOf s.env a.seg ≠ .ms → segCheck s (segOf s.env a.seg) (effAddr s a) n .read = true →
      (∃ i, i < n ∧ byteAddr s (segOf s.env a.seg) (effAddr s a) .read i = none) →
      exec (.cdaf a fz d) s = .fault (.pageFault (effAddr s a) .read s.pc))

/-- LEA gives Data the effective address at the data size, and nothing else changes: base plus scaled index plus
displacement, modulo 2^32 and, at a 2-byte address size, modulo 2^16 (20_memory.md R135, R136, 40_ldstops.md R239, D12,
D29). -/
def Obligations.EffectiveAddress : Prop :=
  ∀ (a : Address) (sz : IntSize) (d : RegNum) (s : State) (f m : Nat) (x : Int),
    (a.isf, f) ∈ [(Scale.x1, 1), (.x2, 2), (.x4, 4), (.x8, 8)] →
    (addrSize s.env a.asz, m) ∈ [(EnvSize.two, 2 ^ 16), (.four, 2 ^ 32)] →
    x = (match a.disp with
      | .disp8 v => if s.params.disp8Signed then v.toInt else (v.toNat : Int)
      | .env32 => (s.env.disp32.toNat : Int)) →
    ∃ (t : State) (r : BitVec (intSize s.env sz).bits), exec (.lea a sz d) s = .next t ∧
      (r.toNat : Int) = ((reg32 s (reg4 a.base)).toNat + (reg32 s (reg4 a.index)).toNat * f + x) %
        m % 2 ^ (intSize s.env sz).bits ∧
      WroteReg s t d (intSize s.env sz) r ∧ ChangesOnly [.regs] s t

/-! ### SpecOps and the LIMMOp -/

/-- BRCOND evaluates the conditions of Table 2.40 that the model admits: `br` gets the condition, negated when CC[0] = 1
under `cc0_negates`, and nothing else changes; a condition on ECF or EZF and a string condition are refused
(42_specops.md R365, R366, R367, R370, D9, D25). That CC[0] is without effect under `cc0_negates = false`, of which the spec
says nothing, is the model's choice (log 38). -/
def Obligations.BranchConditions : Prop :=
  ∀ (low : BitVec 2) (o : SpecOperands) (s : State),
    (∀ p ∈ [(0b0000#4, true), (0b1000#4, s.flags.of), (0b1001#4, s.flags.cf), (0b1010#4, s.flags.zf),
      (0b1011#4, s.flags.cf || s.flags.zf), (0b1100#4, s.flags.sf), (0b1101#4, s.flags.pf),
      (0b1110#4, s.flags.sf ^^ s.flags.of), (0b1111#4, (s.flags.sf ^^ s.flags.of) || s.flags.zf)],
      o.cc.extractLsb' 1 4 = p.1 →
      ∃ t, exec (.brcond low o) s = .next t ∧ t.br = (p.2 ^^ (s.params.cc0Negates && o.cc.getLsbD 0)) ∧
        ChangesOnly [.br] s t) ∧
    ((o.cc.extractLsb' 1 4).toNat = 1 ∨ (o.cc.extractLsb' 1 4).toNat = 2 →
      exec (.brcond low o) s = .refused (.emuFlags s.pc)) ∧
    (3 ≤ (o.cc.extractLsb' 1 4).toNat → (o.cc.extractLsb' 1 4).toNat ≤ 7 →
      exec (.brcond low o) s = .refused (.stringCond s.pc))

/-- CMP and then BRCOND compare: after a CMP that writes OF, SF, ZF, AF, PF and CF (ss = 0111 under the default groups),
BRCOND with the codes of below, equal, below or equal, less, less or equal and their opposites sets `br` to that
comparison of the operands, unsigned or signed, at every size (41_regops.md R269, R287, 42_specops.md R365, R366, D9,
D10, D15). -/
def Obligations.CompareAndBranch : Prop :=
  ∀ (t0 : Bool) (o : RegOperands) (low : BitVec 2) (p : SpecOperands) (s : State),
    s.params.extGroups = Config.defaultExtGroups → s.params.cc0Negates = true → o.rx = false → Type0Admitted t0 s →
    ∃ t, exec (.cmp t0 (some 0b0111#4) o) s = .next t ∧ ChangesOnly [.flags] s t ∧
      ∀ q ∈
        [(0b10010#5, decide ((rd s o.src1 (regSize s.env o.dsz)).toNat <
            (src2Value s (regSize s.env o.dsz) o.src2).toNat)),
          (0b10100#5, decide ((rd s o.src1 (regSize s.env o.dsz)).toNat =
            (src2Value s (regSize s.env o.dsz) o.src2).toNat)),
          (0b10110#5, decide ((rd s o.src1 (regSize s.env o.dsz)).toNat ≤
            (src2Value s (regSize s.env o.dsz) o.src2).toNat)),
          (0b11100#5, decide ((rd s o.src1 (regSize s.env o.dsz)).toInt <
            (src2Value s (regSize s.env o.dsz) o.src2).toInt)),
          (0b11110#5, decide ((rd s o.src1 (regSize s.env o.dsz)).toInt ≤
            (src2Value s (regSize s.env o.dsz) o.src2).toInt))],
        (p.cc = q.1 → ∃ u, exec (.brcond low p) t = .next u ∧ u.br = q.2 ∧ ChangesOnly [.br] t u) ∧
        (p.cc = q.1 ||| 1 → ∃ u, exec (.brcond low p) t = .next u ∧ u.br = !q.2 ∧ ChangesOnly [.br] t u)

/-- LDK at 4 bytes gives Dest the 17-bit constant, as a signed number under `imm17_signed`, else as an unsigned one, and
nothing else changes; at another size it is refused (42_specops.md R375, D13). -/
def Obligations.LoadConstant : Prop :=
  ∀ (o : SpecOperands) (s : State),
    (intSize s.env o.dsz = .four → ∃ (t : State) (r : Word), exec (.ldk o) s = .next t ∧
      (s.params.imm17Signed = true → r.toInt = o.imm17.toInt) ∧
      (s.params.imm17Signed = false → r.toNat = o.imm17.toNat) ∧ WroteReg s t o.dest .four r ∧
      ChangesOnly [.regs] s t) ∧
    (intSize s.env o.dsz ≠ .four → exec (.ldk o) s = .refused (.ldkSize s.pc))

/-- LIMM gives the register of its 4-bit Dest the 32-bit immediate, whose high 15 bits are Op bits 35:21 and whose low 17
are Op bits 16:0, and nothing else changes (30_encoding.md R205, R206, 43_limmop.md R400, D13, D26). -/
def Obligations.LoadImmediate : Prop :=
  ∀ (w : OpWord) (s : State), w.extractLsb' 36 2 = 0b11#2 →
    ∃ d imm t, decode w = .ok (.limm d imm) ∧ d = w.extractLsb' 17 4 ∧
      imm.toNat = (w.extractLsb' 21 15).toNat * 2 ^ 17 + (w.extractLsb' 0 17).toNat ∧
      exec (.limm d imm) s = .next t ∧ WroteReg s t (d.setWidth 5) .four imm ∧ ChangesOnly [.regs] s t

/-- FAULT raises `OpFault(Imm17, Type[1:0])` whatever its condition code (42_specops.md R379, 60_exceptions.md R420, D19). -/
def Obligations.FaultRaises : Prop :=
  ∀ (low : BitVec 2) (o : SpecOperands) (s : State), exec (.fault low o) s = .fault (.opFault o.imm17 low s.pc)

/-- The Ops the spec gives no meaning are refused, whatever their fields: the floating-point ones, CADD and EOR, and the
ones of which it has the name only (40_ldstops.md R225, R233, 41_regops.md R272 to R336, 42_specops.md R371 to R378,
D13, D14, D15, D19). That they answer this refusal also with RX = 1, Type[0] = 1 or SS = 1, for which 30_encoding.md R188
and 41_regops.md R267 and R269 name others and no rule an order, is the model's choice (log 21). -/
def Obligations.NameOnlyOpsRefused : Prop :=
  ∀ (a : Address) (fz : FpSize) (d : RegNum) (t0 : Bool) (st : Option Ext4) (o : RegOperands) (x : SpecOperands)
    (s : State),
    (∀ i ∈ [Instr.ldf a fz d, .stf a fz d, .fpop x, .fpope x], exec i s = .refused (.floatingPoint s.pc)) ∧
    (∀ i ∈ [Instr.cadd t0 st o, .eor t0 st o], exec i s = .refused (.type0 s.pc)) ∧
    ∀ i ∈ [Instr.eand t0 st o, .band t0 st o, .esub t0 st o, .csub t0 st o, .exor t0 st o, .bll t0 st o, .srd t0 st o,
      .rrd t0 st o, .mmx t0 st o, .wrdr st o, .wrdl st o, .wrip st o, .wrdlip st o, .chks st o, .wrdh st o, .lddha x,
      .lddhab x, .ldaha x, .ldahab x, .ldkd x], exec i s = .refused (.noSemantics s.pc)

/-- The two reserved encodings are refused by their verdicts: bits 37:35 = 100, and RegOp row 11011 whatever its other
fields (30_encoding.md R162, R211, 41_regops.md R337, D8, log 27, log 36). -/
def Obligations.ReservedRowsRefused : Prop :=
  ∀ (s : State) (w : OpWord), s.program[s.pc]? = some w →
    (w.extractLsb' 35 3 = 0b100#3 → step s = .refused (.illegal .noFormat s.pc)) ∧
    (w.extractLsb' 31 7 = 0b0011011#7 → step s = .refused (.illegal .regOpType s.pc))
end

