-- ==== Sys2Proof/Laws/State.lean ====
section
/-! SUPPORT. What each update of the state does to each field: one lemma per field per update, and the same for the
shared operations that write registers, flags and events. No later proof unfolds a record update. -/

namespace Sys2Proof.Machine

/-! ### withRegs -/

@[simp] theorem State.withRegs_regs (s : State) (v : Vector Word 24) : (s.withRegs v).regs = v := rfl
@[simp] theorem State.withRegs_mm (s : State) (v : Vector Word 24) : (s.withRegs v).mm = s.mm := rfl
@[simp] theorem State.withRegs_mmt1 (s : State) (v : Vector Word 24) : (s.withRegs v).mmt1 = s.mmt1 := rfl
@[simp] theorem State.withRegs_flags (s : State) (v : Vector Word 24) : (s.withRegs v).flags = s.flags := rfl
@[simp] theorem State.withRegs_br (s : State) (v : Vector Word 24) : (s.withRegs v).br = s.br := rfl
@[simp] theorem State.withRegs_pc (s : State) (v : Vector Word 24) : (s.withRegs v).pc = s.pc := rfl
@[simp] theorem State.withRegs_segs (s : State) (v : Vector Word 24) : (s.withRegs v).segs = s.segs := rfl
@[simp] theorem State.withRegs_sr (s : State) (v : Vector Word 24) : (s.withRegs v).sr = s.sr := rfl
@[simp] theorem State.withRegs_eip (s : State) (v : Vector Word 24) : (s.withRegs v).eip = s.eip := rfl
@[simp] theorem State.withRegs_eflagsVM (s : State) (v : Vector Word 24) : (s.withRegs v).eflagsVM = s.eflagsVM := rfl
@[simp] theorem State.withRegs_cr0PE (s : State) (v : Vector Word 24) : (s.withRegs v).cr0PE = s.cr0PE := rfl
@[simp] theorem State.withRegs_hidden (s : State) (v : Vector Word 24) : (s.withRegs v).hidden = s.hidden := rfl
@[simp] theorem State.withRegs_np (s : State) (v : Vector Word 24) : (s.withRegs v).np = s.np := rfl
@[simp] theorem State.withRegs_mem (s : State) (v : Vector Word 24) : (s.withRegs v).mem = s.mem := rfl
@[simp] theorem State.withRegs_locks (s : State) (v : Vector Word 24) : (s.withRegs v).locks = s.locks := rfl
@[simp] theorem State.withRegs_program (s : State) (v : Vector Word 24) : (s.withRegs v).program = s.program := rfl
@[simp] theorem State.withRegs_env (s : State) (v : Vector Word 24) : (s.withRegs v).env = s.env := rfl
@[simp] theorem State.withRegs_params (s : State) (v : Vector Word 24) : (s.withRegs v).params = s.params := rfl
@[simp] theorem State.withRegs_draws (s : State) (v : Vector Word 24) : (s.withRegs v).draws = s.draws := rfl

/-! ### withMm -/

@[simp] theorem State.withMm_regs (s : State) (v : Vector DWord 8) : (s.withMm v).regs = s.regs := rfl
@[simp] theorem State.withMm_mm (s : State) (v : Vector DWord 8) : (s.withMm v).mm = v := rfl
@[simp] theorem State.withMm_mmt1 (s : State) (v : Vector DWord 8) : (s.withMm v).mmt1 = s.mmt1 := rfl
@[simp] theorem State.withMm_flags (s : State) (v : Vector DWord 8) : (s.withMm v).flags = s.flags := rfl
@[simp] theorem State.withMm_br (s : State) (v : Vector DWord 8) : (s.withMm v).br = s.br := rfl
@[simp] theorem State.withMm_pc (s : State) (v : Vector DWord 8) : (s.withMm v).pc = s.pc := rfl
@[simp] theorem State.withMm_segs (s : State) (v : Vector DWord 8) : (s.withMm v).segs = s.segs := rfl
@[simp] theorem State.withMm_sr (s : State) (v : Vector DWord 8) : (s.withMm v).sr = s.sr := rfl
@[simp] theorem State.withMm_eip (s : State) (v : Vector DWord 8) : (s.withMm v).eip = s.eip := rfl
@[simp] theorem State.withMm_eflagsVM (s : State) (v : Vector DWord 8) : (s.withMm v).eflagsVM = s.eflagsVM := rfl
@[simp] theorem State.withMm_cr0PE (s : State) (v : Vector DWord 8) : (s.withMm v).cr0PE = s.cr0PE := rfl
@[simp] theorem State.withMm_hidden (s : State) (v : Vector DWord 8) : (s.withMm v).hidden = s.hidden := rfl
@[simp] theorem State.withMm_np (s : State) (v : Vector DWord 8) : (s.withMm v).np = s.np := rfl
@[simp] theorem State.withMm_mem (s : State) (v : Vector DWord 8) : (s.withMm v).mem = s.mem := rfl
@[simp] theorem State.withMm_locks (s : State) (v : Vector DWord 8) : (s.withMm v).locks = s.locks := rfl
@[simp] theorem State.withMm_program (s : State) (v : Vector DWord 8) : (s.withMm v).program = s.program := rfl
@[simp] theorem State.withMm_env (s : State) (v : Vector DWord 8) : (s.withMm v).env = s.env := rfl
@[simp] theorem State.withMm_params (s : State) (v : Vector DWord 8) : (s.withMm v).params = s.params := rfl
@[simp] theorem State.withMm_draws (s : State) (v : Vector DWord 8) : (s.withMm v).draws = s.draws := rfl

/-! ### withMmt1 -/

@[simp] theorem State.withMmt1_regs (s : State) (v : DWord) : (s.withMmt1 v).regs = s.regs := rfl
@[simp] theorem State.withMmt1_mm (s : State) (v : DWord) : (s.withMmt1 v).mm = s.mm := rfl
@[simp] theorem State.withMmt1_mmt1 (s : State) (v : DWord) : (s.withMmt1 v).mmt1 = v := rfl
@[simp] theorem State.withMmt1_flags (s : State) (v : DWord) : (s.withMmt1 v).flags = s.flags := rfl
@[simp] theorem State.withMmt1_br (s : State) (v : DWord) : (s.withMmt1 v).br = s.br := rfl
@[simp] theorem State.withMmt1_pc (s : State) (v : DWord) : (s.withMmt1 v).pc = s.pc := rfl
@[simp] theorem State.withMmt1_segs (s : State) (v : DWord) : (s.withMmt1 v).segs = s.segs := rfl
@[simp] theorem State.withMmt1_sr (s : State) (v : DWord) : (s.withMmt1 v).sr = s.sr := rfl
@[simp] theorem State.withMmt1_eip (s : State) (v : DWord) : (s.withMmt1 v).eip = s.eip := rfl
@[simp] theorem State.withMmt1_eflagsVM (s : State) (v : DWord) : (s.withMmt1 v).eflagsVM = s.eflagsVM := rfl
@[simp] theorem State.withMmt1_cr0PE (s : State) (v : DWord) : (s.withMmt1 v).cr0PE = s.cr0PE := rfl
@[simp] theorem State.withMmt1_hidden (s : State) (v : DWord) : (s.withMmt1 v).hidden = s.hidden := rfl
@[simp] theorem State.withMmt1_np (s : State) (v : DWord) : (s.withMmt1 v).np = s.np := rfl
@[simp] theorem State.withMmt1_mem (s : State) (v : DWord) : (s.withMmt1 v).mem = s.mem := rfl
@[simp] theorem State.withMmt1_locks (s : State) (v : DWord) : (s.withMmt1 v).locks = s.locks := rfl
@[simp] theorem State.withMmt1_program (s : State) (v : DWord) : (s.withMmt1 v).program = s.program := rfl
@[simp] theorem State.withMmt1_env (s : State) (v : DWord) : (s.withMmt1 v).env = s.env := rfl
@[simp] theorem State.withMmt1_params (s : State) (v : DWord) : (s.withMmt1 v).params = s.params := rfl
@[simp] theorem State.withMmt1_draws (s : State) (v : DWord) : (s.withMmt1 v).draws = s.draws := rfl

/-! ### withFlags -/

@[simp] theorem State.withFlags_regs (s : State) (v : Flags) : (s.withFlags v).regs = s.regs := rfl
@[simp] theorem State.withFlags_mm (s : State) (v : Flags) : (s.withFlags v).mm = s.mm := rfl
@[simp] theorem State.withFlags_mmt1 (s : State) (v : Flags) : (s.withFlags v).mmt1 = s.mmt1 := rfl
@[simp] theorem State.withFlags_flags (s : State) (v : Flags) : (s.withFlags v).flags = v := rfl
@[simp] theorem State.withFlags_br (s : State) (v : Flags) : (s.withFlags v).br = s.br := rfl
@[simp] theorem State.withFlags_pc (s : State) (v : Flags) : (s.withFlags v).pc = s.pc := rfl
@[simp] theorem State.withFlags_segs (s : State) (v : Flags) : (s.withFlags v).segs = s.segs := rfl
@[simp] theorem State.withFlags_sr (s : State) (v : Flags) : (s.withFlags v).sr = s.sr := rfl
@[simp] theorem State.withFlags_eip (s : State) (v : Flags) : (s.withFlags v).eip = s.eip := rfl
@[simp] theorem State.withFlags_eflagsVM (s : State) (v : Flags) : (s.withFlags v).eflagsVM = s.eflagsVM := rfl
@[simp] theorem State.withFlags_cr0PE (s : State) (v : Flags) : (s.withFlags v).cr0PE = s.cr0PE := rfl
@[simp] theorem State.withFlags_hidden (s : State) (v : Flags) : (s.withFlags v).hidden = s.hidden := rfl
@[simp] theorem State.withFlags_np (s : State) (v : Flags) : (s.withFlags v).np = s.np := rfl
@[simp] theorem State.withFlags_mem (s : State) (v : Flags) : (s.withFlags v).mem = s.mem := rfl
@[simp] theorem State.withFlags_locks (s : State) (v : Flags) : (s.withFlags v).locks = s.locks := rfl
@[simp] theorem State.withFlags_program (s : State) (v : Flags) : (s.withFlags v).program = s.program := rfl
@[simp] theorem State.withFlags_env (s : State) (v : Flags) : (s.withFlags v).env = s.env := rfl
@[simp] theorem State.withFlags_params (s : State) (v : Flags) : (s.withFlags v).params = s.params := rfl
@[simp] theorem State.withFlags_draws (s : State) (v : Flags) : (s.withFlags v).draws = s.draws := rfl

/-! ### withBr -/

@[simp] theorem State.withBr_regs (s : State) (v : Bool) : (s.withBr v).regs = s.regs := rfl
@[simp] theorem State.withBr_mm (s : State) (v : Bool) : (s.withBr v).mm = s.mm := rfl
@[simp] theorem State.withBr_mmt1 (s : State) (v : Bool) : (s.withBr v).mmt1 = s.mmt1 := rfl
@[simp] theorem State.withBr_flags (s : State) (v : Bool) : (s.withBr v).flags = s.flags := rfl
@[simp] theorem State.withBr_br (s : State) (v : Bool) : (s.withBr v).br = v := rfl
@[simp] theorem State.withBr_pc (s : State) (v : Bool) : (s.withBr v).pc = s.pc := rfl
@[simp] theorem State.withBr_segs (s : State) (v : Bool) : (s.withBr v).segs = s.segs := rfl
@[simp] theorem State.withBr_sr (s : State) (v : Bool) : (s.withBr v).sr = s.sr := rfl
@[simp] theorem State.withBr_eip (s : State) (v : Bool) : (s.withBr v).eip = s.eip := rfl
@[simp] theorem State.withBr_eflagsVM (s : State) (v : Bool) : (s.withBr v).eflagsVM = s.eflagsVM := rfl
@[simp] theorem State.withBr_cr0PE (s : State) (v : Bool) : (s.withBr v).cr0PE = s.cr0PE := rfl
@[simp] theorem State.withBr_hidden (s : State) (v : Bool) : (s.withBr v).hidden = s.hidden := rfl
@[simp] theorem State.withBr_np (s : State) (v : Bool) : (s.withBr v).np = s.np := rfl
@[simp] theorem State.withBr_mem (s : State) (v : Bool) : (s.withBr v).mem = s.mem := rfl
@[simp] theorem State.withBr_locks (s : State) (v : Bool) : (s.withBr v).locks = s.locks := rfl
@[simp] theorem State.withBr_program (s : State) (v : Bool) : (s.withBr v).program = s.program := rfl
@[simp] theorem State.withBr_env (s : State) (v : Bool) : (s.withBr v).env = s.env := rfl
@[simp] theorem State.withBr_params (s : State) (v : Bool) : (s.withBr v).params = s.params := rfl
@[simp] theorem State.withBr_draws (s : State) (v : Bool) : (s.withBr v).draws = s.draws := rfl

/-! ### withSr -/

@[simp] theorem State.withSr_regs (s : State) (v : SpecialRegs) : (s.withSr v).regs = s.regs := rfl
@[simp] theorem State.withSr_mm (s : State) (v : SpecialRegs) : (s.withSr v).mm = s.mm := rfl
@[simp] theorem State.withSr_mmt1 (s : State) (v : SpecialRegs) : (s.withSr v).mmt1 = s.mmt1 := rfl
@[simp] theorem State.withSr_flags (s : State) (v : SpecialRegs) : (s.withSr v).flags = s.flags := rfl
@[simp] theorem State.withSr_br (s : State) (v : SpecialRegs) : (s.withSr v).br = s.br := rfl
@[simp] theorem State.withSr_pc (s : State) (v : SpecialRegs) : (s.withSr v).pc = s.pc := rfl
@[simp] theorem State.withSr_segs (s : State) (v : SpecialRegs) : (s.withSr v).segs = s.segs := rfl
@[simp] theorem State.withSr_sr (s : State) (v : SpecialRegs) : (s.withSr v).sr = v := rfl
@[simp] theorem State.withSr_eip (s : State) (v : SpecialRegs) : (s.withSr v).eip = s.eip := rfl
@[simp] theorem State.withSr_eflagsVM (s : State) (v : SpecialRegs) : (s.withSr v).eflagsVM = s.eflagsVM := rfl
@[simp] theorem State.withSr_cr0PE (s : State) (v : SpecialRegs) : (s.withSr v).cr0PE = s.cr0PE := rfl
@[simp] theorem State.withSr_hidden (s : State) (v : SpecialRegs) : (s.withSr v).hidden = s.hidden := rfl
@[simp] theorem State.withSr_np (s : State) (v : SpecialRegs) : (s.withSr v).np = s.np := rfl
@[simp] theorem State.withSr_mem (s : State) (v : SpecialRegs) : (s.withSr v).mem = s.mem := rfl
@[simp] theorem State.withSr_locks (s : State) (v : SpecialRegs) : (s.withSr v).locks = s.locks := rfl
@[simp] theorem State.withSr_program (s : State) (v : SpecialRegs) : (s.withSr v).program = s.program := rfl
@[simp] theorem State.withSr_env (s : State) (v : SpecialRegs) : (s.withSr v).env = s.env := rfl
@[simp] theorem State.withSr_params (s : State) (v : SpecialRegs) : (s.withSr v).params = s.params := rfl
@[simp] theorem State.withSr_draws (s : State) (v : SpecialRegs) : (s.withSr v).draws = s.draws := rfl

/-! ### withNp -/

@[simp] theorem State.withNp_regs (s : State) (v : NpState) : (s.withNp v).regs = s.regs := rfl
@[simp] theorem State.withNp_mm (s : State) (v : NpState) : (s.withNp v).mm = s.mm := rfl
@[simp] theorem State.withNp_mmt1 (s : State) (v : NpState) : (s.withNp v).mmt1 = s.mmt1 := rfl
@[simp] theorem State.withNp_flags (s : State) (v : NpState) : (s.withNp v).flags = s.flags := rfl
@[simp] theorem State.withNp_br (s : State) (v : NpState) : (s.withNp v).br = s.br := rfl
@[simp] theorem State.withNp_pc (s : State) (v : NpState) : (s.withNp v).pc = s.pc := rfl
@[simp] theorem State.withNp_segs (s : State) (v : NpState) : (s.withNp v).segs = s.segs := rfl
@[simp] theorem State.withNp_sr (s : State) (v : NpState) : (s.withNp v).sr = s.sr := rfl
@[simp] theorem State.withNp_eip (s : State) (v : NpState) : (s.withNp v).eip = s.eip := rfl
@[simp] theorem State.withNp_eflagsVM (s : State) (v : NpState) : (s.withNp v).eflagsVM = s.eflagsVM := rfl
@[simp] theorem State.withNp_cr0PE (s : State) (v : NpState) : (s.withNp v).cr0PE = s.cr0PE := rfl
@[simp] theorem State.withNp_hidden (s : State) (v : NpState) : (s.withNp v).hidden = s.hidden := rfl
@[simp] theorem State.withNp_np (s : State) (v : NpState) : (s.withNp v).np = v := rfl
@[simp] theorem State.withNp_mem (s : State) (v : NpState) : (s.withNp v).mem = s.mem := rfl
@[simp] theorem State.withNp_locks (s : State) (v : NpState) : (s.withNp v).locks = s.locks := rfl
@[simp] theorem State.withNp_program (s : State) (v : NpState) : (s.withNp v).program = s.program := rfl
@[simp] theorem State.withNp_env (s : State) (v : NpState) : (s.withNp v).env = s.env := rfl
@[simp] theorem State.withNp_params (s : State) (v : NpState) : (s.withNp v).params = s.params := rfl
@[simp] theorem State.withNp_draws (s : State) (v : NpState) : (s.withNp v).draws = s.draws := rfl

/-! ### withMem -/

@[simp] theorem State.withMem_regs (s : State) (v : Memory) : (s.withMem v).regs = s.regs := rfl
@[simp] theorem State.withMem_mm (s : State) (v : Memory) : (s.withMem v).mm = s.mm := rfl
@[simp] theorem State.withMem_mmt1 (s : State) (v : Memory) : (s.withMem v).mmt1 = s.mmt1 := rfl
@[simp] theorem State.withMem_flags (s : State) (v : Memory) : (s.withMem v).flags = s.flags := rfl
@[simp] theorem State.withMem_br (s : State) (v : Memory) : (s.withMem v).br = s.br := rfl
@[simp] theorem State.withMem_pc (s : State) (v : Memory) : (s.withMem v).pc = s.pc := rfl
@[simp] theorem State.withMem_segs (s : State) (v : Memory) : (s.withMem v).segs = s.segs := rfl
@[simp] theorem State.withMem_sr (s : State) (v : Memory) : (s.withMem v).sr = s.sr := rfl
@[simp] theorem State.withMem_eip (s : State) (v : Memory) : (s.withMem v).eip = s.eip := rfl
@[simp] theorem State.withMem_eflagsVM (s : State) (v : Memory) : (s.withMem v).eflagsVM = s.eflagsVM := rfl
@[simp] theorem State.withMem_cr0PE (s : State) (v : Memory) : (s.withMem v).cr0PE = s.cr0PE := rfl
@[simp] theorem State.withMem_hidden (s : State) (v : Memory) : (s.withMem v).hidden = s.hidden := rfl
@[simp] theorem State.withMem_np (s : State) (v : Memory) : (s.withMem v).np = s.np := rfl
@[simp] theorem State.withMem_mem (s : State) (v : Memory) : (s.withMem v).mem = v := rfl
@[simp] theorem State.withMem_locks (s : State) (v : Memory) : (s.withMem v).locks = s.locks := rfl
@[simp] theorem State.withMem_program (s : State) (v : Memory) : (s.withMem v).program = s.program := rfl
@[simp] theorem State.withMem_env (s : State) (v : Memory) : (s.withMem v).env = s.env := rfl
@[simp] theorem State.withMem_params (s : State) (v : Memory) : (s.withMem v).params = s.params := rfl
@[simp] theorem State.withMem_draws (s : State) (v : Memory) : (s.withMem v).draws = s.draws := rfl

/-! ### withLocks -/

@[simp] theorem State.withLocks_regs (s : State) (v : List LockEvent) : (s.withLocks v).regs = s.regs := rfl
@[simp] theorem State.withLocks_mm (s : State) (v : List LockEvent) : (s.withLocks v).mm = s.mm := rfl
@[simp] theorem State.withLocks_mmt1 (s : State) (v : List LockEvent) : (s.withLocks v).mmt1 = s.mmt1 := rfl
@[simp] theorem State.withLocks_flags (s : State) (v : List LockEvent) : (s.withLocks v).flags = s.flags := rfl
@[simp] theorem State.withLocks_br (s : State) (v : List LockEvent) : (s.withLocks v).br = s.br := rfl
@[simp] theorem State.withLocks_pc (s : State) (v : List LockEvent) : (s.withLocks v).pc = s.pc := rfl
@[simp] theorem State.withLocks_segs (s : State) (v : List LockEvent) : (s.withLocks v).segs = s.segs := rfl
@[simp] theorem State.withLocks_sr (s : State) (v : List LockEvent) : (s.withLocks v).sr = s.sr := rfl
@[simp] theorem State.withLocks_eip (s : State) (v : List LockEvent) : (s.withLocks v).eip = s.eip := rfl
@[simp] theorem State.withLocks_eflagsVM (s : State) (v : List LockEvent) : (s.withLocks v).eflagsVM = s.eflagsVM := rfl
@[simp] theorem State.withLocks_cr0PE (s : State) (v : List LockEvent) : (s.withLocks v).cr0PE = s.cr0PE := rfl
@[simp] theorem State.withLocks_hidden (s : State) (v : List LockEvent) : (s.withLocks v).hidden = s.hidden := rfl
@[simp] theorem State.withLocks_np (s : State) (v : List LockEvent) : (s.withLocks v).np = s.np := rfl
@[simp] theorem State.withLocks_mem (s : State) (v : List LockEvent) : (s.withLocks v).mem = s.mem := rfl
@[simp] theorem State.withLocks_locks (s : State) (v : List LockEvent) : (s.withLocks v).locks = v := rfl
@[simp] theorem State.withLocks_program (s : State) (v : List LockEvent) : (s.withLocks v).program = s.program := rfl
@[simp] theorem State.withLocks_env (s : State) (v : List LockEvent) : (s.withLocks v).env = s.env := rfl
@[simp] theorem State.withLocks_params (s : State) (v : List LockEvent) : (s.withLocks v).params = s.params := rfl
@[simp] theorem State.withLocks_draws (s : State) (v : List LockEvent) : (s.withLocks v).draws = s.draws := rfl

/-! ### withProgram -/

@[simp] theorem State.withProgram_regs (s : State) (v : List OpWord) : (s.withProgram v).regs = s.regs := rfl
@[simp] theorem State.withProgram_mm (s : State) (v : List OpWord) : (s.withProgram v).mm = s.mm := rfl
@[simp] theorem State.withProgram_mmt1 (s : State) (v : List OpWord) : (s.withProgram v).mmt1 = s.mmt1 := rfl
@[simp] theorem State.withProgram_flags (s : State) (v : List OpWord) : (s.withProgram v).flags = s.flags := rfl
@[simp] theorem State.withProgram_br (s : State) (v : List OpWord) : (s.withProgram v).br = s.br := rfl
@[simp] theorem State.withProgram_pc (s : State) (v : List OpWord) : (s.withProgram v).pc = s.pc := rfl
@[simp] theorem State.withProgram_segs (s : State) (v : List OpWord) : (s.withProgram v).segs = s.segs := rfl
@[simp] theorem State.withProgram_sr (s : State) (v : List OpWord) : (s.withProgram v).sr = s.sr := rfl
@[simp] theorem State.withProgram_eip (s : State) (v : List OpWord) : (s.withProgram v).eip = s.eip := rfl
@[simp] theorem State.withProgram_eflagsVM (s : State) (v : List OpWord) : (s.withProgram v).eflagsVM = s.eflagsVM := rfl
@[simp] theorem State.withProgram_cr0PE (s : State) (v : List OpWord) : (s.withProgram v).cr0PE = s.cr0PE := rfl
@[simp] theorem State.withProgram_hidden (s : State) (v : List OpWord) : (s.withProgram v).hidden = s.hidden := rfl
@[simp] theorem State.withProgram_np (s : State) (v : List OpWord) : (s.withProgram v).np = s.np := rfl
@[simp] theorem State.withProgram_mem (s : State) (v : List OpWord) : (s.withProgram v).mem = s.mem := rfl
@[simp] theorem State.withProgram_locks (s : State) (v : List OpWord) : (s.withProgram v).locks = s.locks := rfl
@[simp] theorem State.withProgram_program (s : State) (v : List OpWord) : (s.withProgram v).program = v := rfl
@[simp] theorem State.withProgram_env (s : State) (v : List OpWord) : (s.withProgram v).env = s.env := rfl
@[simp] theorem State.withProgram_params (s : State) (v : List OpWord) : (s.withProgram v).params = s.params := rfl
@[simp] theorem State.withProgram_draws (s : State) (v : List OpWord) : (s.withProgram v).draws = s.draws := rfl

/-! ### advance -/

@[simp] theorem State.advance_regs (s : State) : s.advance.regs = s.regs := rfl
@[simp] theorem State.advance_mm (s : State) : s.advance.mm = s.mm := rfl
@[simp] theorem State.advance_mmt1 (s : State) : s.advance.mmt1 = s.mmt1 := rfl
@[simp] theorem State.advance_flags (s : State) : s.advance.flags = s.flags := rfl
@[simp] theorem State.advance_br (s : State) : s.advance.br = s.br := rfl
@[simp] theorem State.advance_pc (s : State) : s.advance.pc = s.pc + 1 := rfl
@[simp] theorem State.advance_segs (s : State) : s.advance.segs = s.segs := rfl
@[simp] theorem State.advance_sr (s : State) : s.advance.sr = s.sr := rfl
@[simp] theorem State.advance_eip (s : State) : s.advance.eip = s.eip := rfl
@[simp] theorem State.advance_eflagsVM (s : State) : s.advance.eflagsVM = s.eflagsVM := rfl
@[simp] theorem State.advance_cr0PE (s : State) : s.advance.cr0PE = s.cr0PE := rfl
@[simp] theorem State.advance_hidden (s : State) : s.advance.hidden = s.hidden := rfl
@[simp] theorem State.advance_np (s : State) : s.advance.np = s.np := rfl
@[simp] theorem State.advance_mem (s : State) : s.advance.mem = s.mem := rfl
@[simp] theorem State.advance_locks (s : State) : s.advance.locks = s.locks := rfl
@[simp] theorem State.advance_program (s : State) : s.advance.program = s.program := rfl
@[simp] theorem State.advance_env (s : State) : s.advance.env = s.env := rfl
@[simp] theorem State.advance_params (s : State) : s.advance.params = s.params := rfl
@[simp] theorem State.advance_draws (s : State) : s.advance.draws = s.draws := rfl

/-! ### drew -/

@[simp] theorem State.drew_regs (s : State) : s.drew.regs = s.regs := rfl
@[simp] theorem State.drew_mm (s : State) : s.drew.mm = s.mm := rfl
@[simp] theorem State.drew_mmt1 (s : State) : s.drew.mmt1 = s.mmt1 := rfl
@[simp] theorem State.drew_flags (s : State) : s.drew.flags = s.flags := rfl
@[simp] theorem State.drew_br (s : State) : s.drew.br = s.br := rfl
@[simp] theorem State.drew_pc (s : State) : s.drew.pc = s.pc := rfl
@[simp] theorem State.drew_segs (s : State) : s.drew.segs = s.segs := rfl
@[simp] theorem State.drew_sr (s : State) : s.drew.sr = s.sr := rfl
@[simp] theorem State.drew_eip (s : State) : s.drew.eip = s.eip := rfl
@[simp] theorem State.drew_eflagsVM (s : State) : s.drew.eflagsVM = s.eflagsVM := rfl
@[simp] theorem State.drew_cr0PE (s : State) : s.drew.cr0PE = s.cr0PE := rfl
@[simp] theorem State.drew_hidden (s : State) : s.drew.hidden = s.hidden := rfl
@[simp] theorem State.drew_np (s : State) : s.drew.np = s.np := rfl
@[simp] theorem State.drew_mem (s : State) : s.drew.mem = s.mem := rfl
@[simp] theorem State.drew_locks (s : State) : s.drew.locks = s.locks := rfl
@[simp] theorem State.drew_program (s : State) : s.drew.program = s.program := rfl
@[simp] theorem State.drew_env (s : State) : s.drew.env = s.env := rfl
@[simp] theorem State.drew_params (s : State) : s.drew.params = s.params := rfl
@[simp] theorem State.drew_draws (s : State) : s.drew.draws = s.draws + 1 := rfl

/-! ### Operations that write a register, a flag or an event -/

@[simp] theorem setSlot_mm (s : State) (k : Fin 24) (v : Word) : (setSlot s k v).mm = s.mm := by
  unfold setSlot; split <;> rfl
@[simp] theorem setSlot_mmt1 (s : State) (k : Fin 24) (v : Word) : (setSlot s k v).mmt1 = s.mmt1 := by
  unfold setSlot; split <;> rfl
@[simp] theorem setSlot_flags (s : State) (k : Fin 24) (v : Word) : (setSlot s k v).flags = s.flags := by
  unfold setSlot; split <;> rfl
@[simp] theorem setSlot_br (s : State) (k : Fin 24) (v : Word) : (setSlot s k v).br = s.br := by
  unfold setSlot; split <;> rfl
@[simp] theorem setSlot_pc (s : State) (k : Fin 24) (v : Word) : (setSlot s k v).pc = s.pc := by
  unfold setSlot; split <;> rfl
@[simp] theorem setSlot_segs (s : State) (k : Fin 24) (v : Word) : (setSlot s k v).segs = s.segs := by
  unfold setSlot; split <;> rfl
@[simp] theorem setSlot_sr (s : State) (k : Fin 24) (v : Word) : (setSlot s k v).sr = s.sr := by
  unfold setSlot; split <;> rfl
@[simp] theorem setSlot_eip (s : State) (k : Fin 24) (v : Word) : (setSlot s k v).eip = s.eip := by
  unfold setSlot; split <;> rfl
@[simp] theorem setSlot_eflagsVM (s : State) (k : Fin 24) (v : Word) : (setSlot s k v).eflagsVM = s.eflagsVM := by
  unfold setSlot; split <;> rfl
@[simp] theorem setSlot_cr0PE (s : State) (k : Fin 24) (v : Word) : (setSlot s k v).cr0PE = s.cr0PE := by
  unfold setSlot; split <;> rfl
@[simp] theorem setSlot_hidden (s : State) (k : Fin 24) (v : Word) : (setSlot s k v).hidden = s.hidden := by
  unfold setSlot; split <;> rfl
@[simp] theorem setSlot_np (s : State) (k : Fin 24) (v : Word) : (setSlot s k v).np = s.np := by
  unfold setSlot; split <;> rfl
@[simp] theorem setSlot_mem (s : State) (k : Fin 24) (v : Word) : (setSlot s k v).mem = s.mem := by
  unfold setSlot; split <;> rfl
@[simp] theorem setSlot_locks (s : State) (k : Fin 24) (v : Word) : (setSlot s k v).locks = s.locks := by
  unfold setSlot; split <;> rfl
@[simp] theorem setSlot_program (s : State) (k : Fin 24) (v : Word) : (setSlot s k v).program = s.program := by
  unfold setSlot; split <;> rfl
@[simp] theorem setSlot_env (s : State) (k : Fin 24) (v : Word) : (setSlot s k v).env = s.env := by
  unfold setSlot; split <;> rfl
@[simp] theorem setSlot_params (s : State) (k : Fin 24) (v : Word) : (setSlot s k v).params = s.params := by
  unfold setSlot; split <;> rfl
@[simp] theorem setSlot_draws (s : State) (k : Fin 24) (v : Word) : (setSlot s k v).draws = s.draws := by
  unfold setSlot; split <;> rfl

@[simp] theorem wr_mm (s : State) (n : RegNum) (sz : Size) (v : BitVec sz.bits) : (wr s n sz v).mm = s.mm := by
  cases sz <;> exact setSlot_mm _ _ _
@[simp] theorem wr_mmt1 (s : State) (n : RegNum) (sz : Size) (v : BitVec sz.bits) : (wr s n sz v).mmt1 = s.mmt1 := by
  cases sz <;> exact setSlot_mmt1 _ _ _
@[simp] theorem wr_flags (s : State) (n : RegNum) (sz : Size) (v : BitVec sz.bits) : (wr s n sz v).flags = s.flags := by
  cases sz <;> exact setSlot_flags _ _ _
@[simp] theorem wr_br (s : State) (n : RegNum) (sz : Size) (v : BitVec sz.bits) : (wr s n sz v).br = s.br := by
  cases sz <;> exact setSlot_br _ _ _
@[simp] theorem wr_pc (s : State) (n : RegNum) (sz : Size) (v : BitVec sz.bits) : (wr s n sz v).pc = s.pc := by
  cases sz <;> exact setSlot_pc _ _ _
@[simp] theorem wr_segs (s : State) (n : RegNum) (sz : Size) (v : BitVec sz.bits) : (wr s n sz v).segs = s.segs := by
  cases sz <;> exact setSlot_segs _ _ _
@[simp] theorem wr_sr (s : State) (n : RegNum) (sz : Size) (v : BitVec sz.bits) : (wr s n sz v).sr = s.sr := by
  cases sz <;> exact setSlot_sr _ _ _
@[simp] theorem wr_eip (s : State) (n : RegNum) (sz : Size) (v : BitVec sz.bits) : (wr s n sz v).eip = s.eip := by
  cases sz <;> exact setSlot_eip _ _ _
@[simp] theorem wr_eflagsVM (s : State) (n : RegNum) (sz : Size) (v : BitVec sz.bits) : (wr s n sz v).eflagsVM = s.eflagsVM := by
  cases sz <;> exact setSlot_eflagsVM _ _ _
@[simp] theorem wr_cr0PE (s : State) (n : RegNum) (sz : Size) (v : BitVec sz.bits) : (wr s n sz v).cr0PE = s.cr0PE := by
  cases sz <;> exact setSlot_cr0PE _ _ _
@[simp] theorem wr_hidden (s : State) (n : RegNum) (sz : Size) (v : BitVec sz.bits) : (wr s n sz v).hidden = s.hidden := by
  cases sz <;> exact setSlot_hidden _ _ _
@[simp] theorem wr_np (s : State) (n : RegNum) (sz : Size) (v : BitVec sz.bits) : (wr s n sz v).np = s.np := by
  cases sz <;> exact setSlot_np _ _ _
@[simp] theorem wr_mem (s : State) (n : RegNum) (sz : Size) (v : BitVec sz.bits) : (wr s n sz v).mem = s.mem := by
  cases sz <;> exact setSlot_mem _ _ _
@[simp] theorem wr_locks (s : State) (n : RegNum) (sz : Size) (v : BitVec sz.bits) : (wr s n sz v).locks = s.locks := by
  cases sz <;> exact setSlot_locks _ _ _
@[simp] theorem wr_program (s : State) (n : RegNum) (sz : Size) (v : BitVec sz.bits) : (wr s n sz v).program = s.program := by
  cases sz <;> exact setSlot_program _ _ _
@[simp] theorem wr_env (s : State) (n : RegNum) (sz : Size) (v : BitVec sz.bits) : (wr s n sz v).env = s.env := by
  cases sz <;> exact setSlot_env _ _ _
@[simp] theorem wr_params (s : State) (n : RegNum) (sz : Size) (v : BitVec sz.bits) : (wr s n sz v).params = s.params := by
  cases sz <;> exact setSlot_params _ _ _
@[simp] theorem wr_draws (s : State) (n : RegNum) (sz : Size) (v : BitVec sz.bits) : (wr s n sz v).draws = s.draws := by
  cases sz <;> exact setSlot_draws _ _ _

@[simp] theorem setMm_regs (s : State) (r : MmSlot) (v : DWord) : (setMm s r v).regs = s.regs := by
  cases r <;> rfl
@[simp] theorem setMm_flags (s : State) (r : MmSlot) (v : DWord) : (setMm s r v).flags = s.flags := by
  cases r <;> rfl
@[simp] theorem setMm_br (s : State) (r : MmSlot) (v : DWord) : (setMm s r v).br = s.br := by
  cases r <;> rfl
@[simp] theorem setMm_pc (s : State) (r : MmSlot) (v : DWord) : (setMm s r v).pc = s.pc := by
  cases r <;> rfl
@[simp] theorem setMm_segs (s : State) (r : MmSlot) (v : DWord) : (setMm s r v).segs = s.segs := by
  cases r <;> rfl
@[simp] theorem setMm_sr (s : State) (r : MmSlot) (v : DWord) : (setMm s r v).sr = s.sr := by
  cases r <;> rfl
@[simp] theorem setMm_eip (s : State) (r : MmSlot) (v : DWord) : (setMm s r v).eip = s.eip := by
  cases r <;> rfl
@[simp] theorem setMm_eflagsVM (s : State) (r : MmSlot) (v : DWord) : (setMm s r v).eflagsVM = s.eflagsVM := by
  cases r <;> rfl
@[simp] theorem setMm_cr0PE (s : State) (r : MmSlot) (v : DWord) : (setMm s r v).cr0PE = s.cr0PE := by
  cases r <;> rfl
@[simp] theorem setMm_hidden (s : State) (r : MmSlot) (v : DWord) : (setMm s r v).hidden = s.hidden := by
  cases r <;> rfl
@[simp] theorem setMm_np (s : State) (r : MmSlot) (v : DWord) : (setMm s r v).np = s.np := by
  cases r <;> rfl
@[simp] theorem setMm_mem (s : State) (r : MmSlot) (v : DWord) : (setMm s r v).mem = s.mem := by
  cases r <;> rfl
@[simp] theorem setMm_locks (s : State) (r : MmSlot) (v : DWord) : (setMm s r v).locks = s.locks := by
  cases r <;> rfl
@[simp] theorem setMm_program (s : State) (r : MmSlot) (v : DWord) : (setMm s r v).program = s.program := by
  cases r <;> rfl
@[simp] theorem setMm_env (s : State) (r : MmSlot) (v : DWord) : (setMm s r v).env = s.env := by
  cases r <;> rfl
@[simp] theorem setMm_params (s : State) (r : MmSlot) (v : DWord) : (setMm s r v).params = s.params := by
  cases r <;> rfl
@[simp] theorem setMm_draws (s : State) (r : MmSlot) (v : DWord) : (setMm s r v).draws = s.draws := by
  cases r <;> rfl

@[simp] theorem applyStatus_regs (s : State) (st : Option Ext4) (v : FlagValues) : (applyStatus s st v).regs = s.regs := by
  cases st <;> rfl
@[simp] theorem applyStatus_mm (s : State) (st : Option Ext4) (v : FlagValues) : (applyStatus s st v).mm = s.mm := by
  cases st <;> rfl
@[simp] theorem applyStatus_mmt1 (s : State) (st : Option Ext4) (v : FlagValues) : (applyStatus s st v).mmt1 = s.mmt1 := by
  cases st <;> rfl
@[simp] theorem applyStatus_br (s : State) (st : Option Ext4) (v : FlagValues) : (applyStatus s st v).br = s.br := by
  cases st <;> rfl
@[simp] theorem applyStatus_pc (s : State) (st : Option Ext4) (v : FlagValues) : (applyStatus s st v).pc = s.pc := by
  cases st <;> rfl
@[simp] theorem applyStatus_segs (s : State) (st : Option Ext4) (v : FlagValues) : (applyStatus s st v).segs = s.segs := by
  cases st <;> rfl
@[simp] theorem applyStatus_sr (s : State) (st : Option Ext4) (v : FlagValues) : (applyStatus s st v).sr = s.sr := by
  cases st <;> rfl
@[simp] theorem applyStatus_eip (s : State) (st : Option Ext4) (v : FlagValues) : (applyStatus s st v).eip = s.eip := by
  cases st <;> rfl
@[simp] theorem applyStatus_eflagsVM (s : State) (st : Option Ext4) (v : FlagValues) : (applyStatus s st v).eflagsVM = s.eflagsVM := by
  cases st <;> rfl
@[simp] theorem applyStatus_cr0PE (s : State) (st : Option Ext4) (v : FlagValues) : (applyStatus s st v).cr0PE = s.cr0PE := by
  cases st <;> rfl
@[simp] theorem applyStatus_hidden (s : State) (st : Option Ext4) (v : FlagValues) : (applyStatus s st v).hidden = s.hidden := by
  cases st <;> rfl
@[simp] theorem applyStatus_np (s : State) (st : Option Ext4) (v : FlagValues) : (applyStatus s st v).np = s.np := by
  cases st <;> rfl
@[simp] theorem applyStatus_mem (s : State) (st : Option Ext4) (v : FlagValues) : (applyStatus s st v).mem = s.mem := by
  cases st <;> rfl
@[simp] theorem applyStatus_locks (s : State) (st : Option Ext4) (v : FlagValues) : (applyStatus s st v).locks = s.locks := by
  cases st <;> rfl
@[simp] theorem applyStatus_program (s : State) (st : Option Ext4) (v : FlagValues) : (applyStatus s st v).program = s.program := by
  cases st <;> rfl
@[simp] theorem applyStatus_env (s : State) (st : Option Ext4) (v : FlagValues) : (applyStatus s st v).env = s.env := by
  cases st <;> rfl
@[simp] theorem applyStatus_params (s : State) (st : Option Ext4) (v : FlagValues) : (applyStatus s st v).params = s.params := by
  cases st <;> rfl
@[simp] theorem applyStatus_draws (s : State) (st : Option Ext4) (v : FlagValues) : (applyStatus s st v).draws = s.draws := by
  cases st <;> rfl

@[simp] theorem recordLock_regs (s : State) (seg : Seg) (ea : Word) (n : Nat) : (recordLock s seg ea n).regs = s.regs := by
  rfl
@[simp] theorem recordLock_mm (s : State) (seg : Seg) (ea : Word) (n : Nat) : (recordLock s seg ea n).mm = s.mm := by
  rfl
@[simp] theorem recordLock_mmt1 (s : State) (seg : Seg) (ea : Word) (n : Nat) : (recordLock s seg ea n).mmt1 = s.mmt1 := by
  rfl
@[simp] theorem recordLock_flags (s : State) (seg : Seg) (ea : Word) (n : Nat) : (recordLock s seg ea n).flags = s.flags := by
  rfl
@[simp] theorem recordLock_br (s : State) (seg : Seg) (ea : Word) (n : Nat) : (recordLock s seg ea n).br = s.br := by
  rfl
@[simp] theorem recordLock_pc (s : State) (seg : Seg) (ea : Word) (n : Nat) : (recordLock s seg ea n).pc = s.pc := by
  rfl
@[simp] theorem recordLock_segs (s : State) (seg : Seg) (ea : Word) (n : Nat) : (recordLock s seg ea n).segs = s.segs := by
  rfl
@[simp] theorem recordLock_sr (s : State) (seg : Seg) (ea : Word) (n : Nat) : (recordLock s seg ea n).sr = s.sr := by
  rfl
@[simp] theorem recordLock_eip (s : State) (seg : Seg) (ea : Word) (n : Nat) : (recordLock s seg ea n).eip = s.eip := by
  rfl
@[simp] theorem recordLock_eflagsVM (s : State) (seg : Seg) (ea : Word) (n : Nat) : (recordLock s seg ea n).eflagsVM = s.eflagsVM := by
  rfl
@[simp] theorem recordLock_cr0PE (s : State) (seg : Seg) (ea : Word) (n : Nat) : (recordLock s seg ea n).cr0PE = s.cr0PE := by
  rfl
@[simp] theorem recordLock_hidden (s : State) (seg : Seg) (ea : Word) (n : Nat) : (recordLock s seg ea n).hidden = s.hidden := by
  rfl
@[simp] theorem recordLock_np (s : State) (seg : Seg) (ea : Word) (n : Nat) : (recordLock s seg ea n).np = s.np := by
  rfl
@[simp] theorem recordLock_mem (s : State) (seg : Seg) (ea : Word) (n : Nat) : (recordLock s seg ea n).mem = s.mem := by
  rfl
@[simp] theorem recordLock_program (s : State) (seg : Seg) (ea : Word) (n : Nat) : (recordLock s seg ea n).program = s.program := by
  rfl
@[simp] theorem recordLock_env (s : State) (seg : Seg) (ea : Word) (n : Nat) : (recordLock s seg ea n).env = s.env := by
  rfl
@[simp] theorem recordLock_params (s : State) (seg : Seg) (ea : Word) (n : Nat) : (recordLock s seg ea n).params = s.params := by
  rfl
@[simp] theorem recordLock_draws (s : State) (seg : Seg) (ea : Word) (n : Nat) : (recordLock s seg ea n).draws = s.draws := by
  rfl

@[simp] theorem applyStatus_flags_none (s : State) (v : FlagValues) : (applyStatus s none v).flags = s.flags := rfl

@[simp] theorem applyStatus_flags_some (s : State) (ext : Ext4) (v : FlagValues) :
    (applyStatus s (some ext) v).flags = writeFlags s.flags (selected s.params.extGroups ext) v := rfl

@[simp] theorem recordLock_locks (s : State) (seg : Seg) (ea : Word) (n : Nat) :
    (recordLock s seg ea n).locks = s.locks ++ [{ seg := seg, ea := ea, n := n }] := rfl

end Sys2Proof.Machine
end

