-- ==== Sys2Proof/Laws/Memory.lean ====
section
/-! SUPPORT. The memory: what a read gives after a write, and that every operation keeps the canonical form
(20_memory.md R140, R141, R143). -/

namespace Sys2Proof.Machine

/-! ### One byte -/

/-- What every address reads after one byte was stored: the byte where it was stored, if that address holds one. -/
theorem lookup_store (m : Memory) (a b : Nat) (v : Byte) :
    (Memory.store m a v).lookup b = if b = a ∧ (m.lookup a).isSome = true then some v else m.lookup b := by
  induction m with
  | nil => simp [Memory.store, Memory.lookup]
  | cons c m ih =>
    by_cases h : c.1 = a
    · by_cases hb : c.1 = b
      · have hba : b = a := by omega
        simp [Memory.store, Memory.lookup, h, hba]
      · have hba : ¬b = a := by omega
        simp [Memory.store, Memory.lookup, h, hba, show ¬a = b by omega]
    · by_cases hb : c.1 = b
      · have hba : ¬b = a := by omega
        simp [Memory.store, Memory.lookup, hb, hba]
      · simp only [Memory.store, Memory.lookup, if_neg h, if_neg hb, ih]

/-- A store keeps which addresses hold a byte. -/
theorem isSome_store (m : Memory) (a b : Nat) (v : Byte) :
    ((Memory.store m a v).lookup b).isSome = (m.lookup b).isSome := by
  rw [lookup_store]
  split
  · rename_i h; rw [h.1, h.2]; rfl
  · rfl

/-- A store keeps the canonical form. -/
theorem wfFrom_store (m : Memory) (lo a : Nat) (v : Byte) :
    Memory.wfFrom lo (Memory.store m a v) = Memory.wfFrom lo m := by
  induction m generalizing lo with
  | nil => rfl
  | cons c m ih =>
    by_cases h : c.1 = a
    · simp [Memory.store, Memory.wfFrom, h]
    · simp [Memory.store, Memory.wfFrom, h, ih]

/-! ### The bytes of a value -/

/-- A store of bytes keeps which addresses hold a byte. -/
theorem isSome_storeBytes (m : Memory) (ps : List Nat) (v : DWord) (a : Nat) :
    ((storeBytes m ps v).lookup a).isSome = (m.lookup a).isSome := by
  induction ps generalizing m v with
  | nil => rfl
  | cons p ps ih => rw [storeBytes, ih, isSome_store]

/-- A store of bytes keeps the canonical form. -/
theorem wf_storeBytes (m : Memory) (ps : List Nat) (v : DWord) :
    Memory.wf (storeBytes m ps v) = Memory.wf m := by
  induction ps generalizing m v with
  | nil => rfl
  | cons p ps ih => rw [storeBytes, ih, Memory.wf, wfFrom_store]; rfl

/-- The memory after reset has the canonical form. -/
theorem wf_reset : Memory.wf State.reset.mem = true :=
  rfl

/-- An address that is that of no byte keeps its byte. -/
theorem lookup_storeBytes_other (m : Memory) (ps : List Nat) (v : DWord) (a : Nat) (h : a ∉ ps) :
    (storeBytes m ps v).lookup a = m.lookup a := by
  induction ps generalizing m v with
  | nil => rfl
  | cons p ps ih =>
    rw [storeBytes, ih _ _ (fun c => h (List.mem_cons_of_mem _ c)), lookup_store, if_neg]
    exact fun c => h (c.1 ▸ List.mem_cons_self)

/-- The address of byte `i`, if no later byte has it, holds byte `i` of the value. -/
theorem lookup_storeBytes_at (m : Memory) (ps : List Nat) (v : DWord) (i : Nat) (hi : i < ps.length)
    (hm : (m.lookup ps[i]).isSome = true) (hl : ∀ j, (hj : j < ps.length) → i < j → ps[j] ≠ ps[i]) :
    (storeBytes m ps v).lookup ps[i] = some (v.extractLsb' (8 * i) 8) := by
  induction ps generalizing m v i with
  | nil => simp at hi
  | cons p ps ih =>
    cases i with
    | zero =>
      rw [storeBytes]
      have hn : p ∉ ps := by
        intro hp
        obtain ⟨j, hj, e⟩ := List.getElem_of_mem hp
        exact hl (j + 1) (by simpa using hj) (by omega) (by simpa using e)
      simp only [List.getElem_cons_zero] at hm ⊢
      rw [lookup_storeBytes_other _ _ _ _ hn, lookup_store, if_pos ⟨rfl, hm⟩]
      rfl
    | succ i =>
      rw [storeBytes]
      simp only [List.getElem_cons_succ] at hm ⊢
      have := ih (m := m.store p (v.setWidth 8)) (v := v >>> 8) (i := i) (by simpa using hi)
        (by rw [isSome_store]; exact hm)
        (fun j hj hij => hl (j + 1) (by simpa using hj) (by omega))
      rw [this]
      congr 1
      ext k hk
      rw [BitVec.getElem_extractLsb', BitVec.getElem_extractLsb', BitVec.getLsbD_ushiftRight]
      congr 1
      omega

/-- The value of a list of bytes, byte by byte (20_memory.md R143). -/
theorem fromBytes_byte (bs : List Byte) (i : Nat) (hi : i < bs.length) (h8 : bs.length ≤ 8) :
    (fromBytes bs).extractLsb' (8 * i) 8 = bs[i] := by
  induction bs generalizing i with
  | nil => simp at hi
  | cons b bs ih =>
    simp only [List.length_cons] at hi h8
    ext k hk
    rw [BitVec.getElem_extractLsb', fromBytes, BitVec.getLsbD_or, BitVec.getLsbD_shiftLeft, BitVec.getLsbD_setWidth]
    cases i with
    | zero => simp [hk, show k < 64 by omega]
    | succ i =>
      have h := congrArg (fun x => x.getLsbD k) (ih i (by omega) (by omega))
      simp only [BitVec.getLsbD_extractLsb', hk, decide_true, Bool.true_and] at h
      rw [show b.getLsbD (8 * (i + 1) + k) = false from BitVec.getLsbD_of_ge _ _ (by omega),
        show 8 * (i + 1) + k - 8 = 8 * i + k by omega, h]
      simp [show 8 * (i + 1) + k < 64 by omega, show ¬8 * (i + 1) + k < 8 by omega, BitVec.getLsbD_eq_getElem hk]

end Sys2Proof.Machine
end

