-- ==== Sys2Proof/Laws/Result.lean ====
section
/-! SUPPORT. How a meaning ends: the laws of `Res`, of the guards and of `finish`. -/

namespace Sys2Proof.Machine

/-! ### Sequencing -/

@[simp] theorem res_ok_bind {α β : Type} (a : α) (f : α → Res β) : (Except.ok a >>= f : Res β) = f a := rfl

@[simp] theorem res_error_bind {α β : Type} (e : Stop) (f : α → Res β) : (Except.error e >>= f : Res β) = .error e := rfl

@[simp] theorem res_refuse_bind {α β : Type} (r : Refusal) (f : α → Res β) : ((refuse r : Res α) >>= f) = refuse r := rfl

@[simp] theorem res_raise_bind {α β : Type} (r : Fault) (f : α → Res β) : ((raise r : Res α) >>= f) = raise r := rfl

@[simp] theorem res_pure {α : Type} (a : α) : (pure a : Res α) = .ok a := rfl

/-- A sequence answers when its first part does and the rest does on what it gave. -/
theorem res_bind_ok {α β : Type} {x : Res α} {f : α → Res β} {b : β} :
    (x >>= f) = .ok b ↔ ∃ a, x = .ok a ∧ f a = .ok b := by
  cases x with
  | ok a => simp
  | error e => simp

/-- A sequence stops with `e` when its first part does, or the rest does on what it gave. -/
theorem res_bind_error {α β : Type} {x : Res α} {f : α → Res β} {e : Stop} :
    (x >>= f) = .error e ↔ x = .error e ∨ ∃ a, x = .ok a ∧ f a = .error e := by
  cases x with
  | ok a => simp
  | error e' => simp

/-! ### Outcomes -/

@[simp] theorem finish_ok (s : State) : finish (.ok s) = .next s := rfl

@[simp] theorem finish_raise (f : Fault) : finish (raise f) = .fault f := rfl

@[simp] theorem finish_refuse (r : Refusal) : finish (refuse r) = .refused r := rfl

/-- A meaning has a next state exactly when its result is one. -/
theorem finish_next {x : Res State} {t : State} : finish x = .next t ↔ x = .ok t := by
  rcases x with (_ | _) | _ <;> simp [finish]

/-- A meaning faults exactly when its result is the fault. -/
theorem finish_fault {x : Res State} {f : Fault} : finish x = .fault f ↔ x = .error (.fault f) := by
  rcases x with (_ | _) | _ <;> simp [finish]

/-- A meaning refuses exactly when its result is the refusal. -/
theorem finish_refused {x : Res State} {r : Refusal} : finish x = .refused r ↔ x = .error (.refusal r) := by
  rcases x with (_ | _) | _ <;> simp [finish]

/-! ### Guards -/

@[simp] theorem refuseUnless_true (r : Refusal) : refuseUnless true r = .ok () := rfl

@[simp] theorem refuseUnless_false (r : Refusal) : refuseUnless false r = refuse r := rfl

@[simp] theorem raiseUnless_true (f : Fault) : raiseUnless true f = .ok () := rfl

@[simp] theorem raiseUnless_false (f : Fault) : raiseUnless false f = raise f := rfl

/-- A refusing guard passes exactly when its condition holds. -/
theorem refuseUnless_ok {c : Bool} {r : Refusal} {u : Unit} : refuseUnless c r = .ok u ↔ c = true := by
  cases c <;> simp [refuseUnless, refuse]

/-- A refusing guard stops with its refusal and only when its condition fails. -/
theorem refuseUnless_error {c : Bool} {r : Refusal} {e : Stop} :
    refuseUnless c r = .error e ↔ c = false ∧ e = .refusal r := by
  cases c <;> simp [refuseUnless, refuse, eq_comm]

/-- A faulting guard passes exactly when its condition holds. -/
theorem raiseUnless_ok {c : Bool} {f : Fault} {u : Unit} : raiseUnless c f = .ok u ↔ c = true := by
  cases c <;> simp [raiseUnless, raise]

/-- A faulting guard stops with its fault and only when its condition fails. -/
theorem raiseUnless_error {c : Bool} {f : Fault} {e : Stop} :
    raiseUnless c f = .error e ↔ c = false ∧ e = .fault f := by
  cases c <;> simp [raiseUnless, raise, eq_comm]

/-- The guards of a RegOp of Table 2.31 pass exactly on the admitted forms (41_regops.md R267, R269). -/
theorem arithGuard_ok {t0 : Bool} {st : Option Ext4} {o : RegOperands} {s : State} {u : Unit} :
    arithGuard t0 st o s = .ok u ↔ ArithAdmitted t0 st o s := by
  simp only [arithGuard, rxGuard, type0Guard, res_bind_ok, refuseUnless_ok, exists_const, Bool.or_eq_true,
    Bool.not_eq_eq_eq_not, Bool.not_true, beq_iff_eq]
  constructor
  · rintro ⟨h1, h2, h3⟩
    refine ⟨h1, fun h => by simpa [h] using h2, ?_⟩
    rintro ext rfl
    simpa [statusOk, and_assoc] using h3
  · rintro ⟨h1, h2, h3⟩
    refine ⟨h1, ?_, ?_⟩
    · cases t0
      · exact .inl rfl
      · exact .inr (h2 rfl)
    · cases st with
      | none => rfl
      | some ext => simpa [statusOk, and_assoc] using h3 ext rfl

/-- The guards of a RegOp of Table 2.32 pass exactly on the admitted forms (41_regops.md R267, R269). -/
theorem shiftGuard_ok {t0 : Bool} {st : Option Ext4} {o : RegOperands} {s : State} {u : Unit} :
    shiftGuard t0 st o s = .ok u ↔ ShiftAdmitted t0 st o s := by
  simp only [shiftGuard, rxGuard, type0Guard, noStatusGuard, res_bind_ok, refuseUnless_ok, exists_const,
    Bool.or_eq_true, Bool.not_eq_eq_eq_not, Bool.not_true, beq_iff_eq]
  constructor
  · rintro ⟨h1, h2, h3⟩
    exact ⟨h1, fun h => by simpa [h] using h2, by simpa using h3⟩
  · rintro ⟨h1, h2, h3⟩
    refine ⟨h1, ?_, by simpa using h3⟩
    cases t0
    · exact .inl rfl
    · exact .inr (h2 rfl)

/-- The guards of a RegOp of Tables 2.33 and 2.34 pass exactly on the admitted forms (30_encoding.md R188, R211,
41_regops.md R269). -/
theorem specialGuard_ok {ss : Bool} {o : RegOperands} {s : State} {u : Unit} :
    specialGuard ss o s = .ok u ↔ SpecialAdmitted ss o := by
  simp only [specialGuard, rxGuard, noStatusGuard, nonByteGuard, res_bind_ok, refuseUnless_ok, exists_const,
    Bool.not_eq_eq_eq_not, Bool.not_true, bne_iff_ne, ne_eq]
  exact ⟨fun ⟨h1, h2, h3⟩ => ⟨h1, h2, h3⟩, fun ⟨h1, h2, h3⟩ => ⟨h1, h2, h3⟩⟩

/-- The one-source form (41_regops.md R327). -/
theorem oneSourceGuard_ok {s : State} {o : RegOperands} {u : Unit} :
    oneSourceGuard s o = .ok u ↔ o.src2 = .reg o.src1 := by
  simp [oneSourceGuard, refuseUnless_ok]

end Sys2Proof.Machine
end

