-- ==== Sys2Proof/Laws/Access.lean ====
section
/-! SUPPORT. Memory access: each operation of an access said once, as what it gives and when it stops
(20_memory.md R138 to R144). -/

namespace Sys2Proof.Machine

/-! ### Addresses -/

/-- The translation of a list of linear addresses answers with their physical addresses. -/
theorem translateAll_ok {s : State} {ea : Word} {kind : AccessKind} {ls : List Word} {ps : List Nat} :
    translateAll s ea kind ls = .ok ps ↔
      ls.map (fun l => (translate s l kind).map BitVec.toNat) = ps.map some := by
  induction ls generalizing ps with
  | nil => cases ps <;> simp [translateAll]
  | cons l ls ih =>
    cases h : translate s l kind with
    | none => cases ps <;> simp [translateAll, h, raise]
    | some p =>
      simp only [translateAll, h, res_bind_ok, res_pure, Except.ok.injEq, List.map_cons, Option.map_some]
      constructor
      · rintro ⟨qs, hq, rfl⟩
        simp [ih.mp hq]
      · intro e
        cases ps with
        | nil => simp at e
        | cons q qs =>
          simp only [List.map_cons, List.cons.injEq, Option.some.injEq] at e
          exact ⟨qs, ih.mpr e.2, by rw [e.1]⟩

/-- It stops with the page fault of the access, and only when one of the addresses has one. -/
theorem translateAll_error {s : State} {ea : Word} {kind : AccessKind} {ls : List Word} {e : Stop} :
    translateAll s ea kind ls = .error e ↔
      (∃ l ∈ ls, translate s l kind = none) ∧ e = .fault (.pageFault ea kind s.pc) := by
  induction ls with
  | nil => simp [translateAll]
  | cons l ls ih =>
    cases h : translate s l kind with
    | none => simp [translateAll, h, raise, eq_comm]
    | some p => simp [translateAll, h, res_bind_error, ih]

/-- The addresses of the bytes of an access, as `byteAddr` says them. -/
theorem linearAddrs_map (s : State) (seg : Seg) (ea : Word) (n : Nat) (kind : AccessKind) :
    (linearAddrs s seg ea n).map (fun l => (translate s l kind).map BitVec.toNat) =
      (List.range n).map (byteAddr s seg ea kind) := by
  simp [linearAddrs, byteAddr, Function.comp_def]

/-- A checked access answers with the physical addresses of its bytes. -/
theorem checkedAddrs_ok {s : State} {seg : Seg} {ea : Word} {n : Nat} {kind : AccessKind} {ps : List Nat} :
    checkedAddrs s seg ea n kind = .ok ps ↔
      segCheck s seg ea n kind = true ∧ (List.range n).map (byteAddr s seg ea kind) = ps.map some := by
  simp only [checkedAddrs, res_bind_ok, raiseUnless_ok, translateAll_ok, linearAddrs_map]
  simp

/-- A checked access stops with `SegFault`, or with the page fault of a byte that has one (60_exceptions.md R421). -/
theorem checkedAddrs_error {s : State} {seg : Seg} {ea : Word} {n : Nat} {kind : AccessKind} {e : Stop} :
    checkedAddrs s seg ea n kind = .error e ↔
      (segCheck s seg ea n kind = false ∧ e = .fault (.segFault seg ea s.pc)) ∨
        (segCheck s seg ea n kind = true ∧ (∃ i, i < n ∧ byteAddr s seg ea kind i = none) ∧
          e = .fault (.pageFault ea kind s.pc)) := by
  simp only [checkedAddrs, res_bind_error, raiseUnless_error, raiseUnless_ok, translateAll_error, exists_const]
  refine or_congr Iff.rfl (and_congr Iff.rfl (and_congr ?_ Iff.rfl))
  simp [linearAddrs, byteAddr]

/-- Addresses that all exist make a list. -/
theorem exists_addrs {s : State} {seg : Seg} {ea : Word} {n : Nat} {kind : AccessKind}
    (h : ∀ i, i < n → byteAddr s seg ea kind i ≠ none) :
    ∃ ps : List Nat, (List.range n).map (byteAddr s seg ea kind) = ps.map some := by
  induction n with
  | zero => exact ⟨[], rfl⟩
  | succ n ih =>
    obtain ⟨ps, hp⟩ := ih (fun i hi => h i (by omega))
    obtain ⟨p, hq⟩ := Option.ne_none_iff_exists'.mp (h n (by omega))
    exact ⟨ps ++ [p], by simp [List.range_succ, hp, hq]⟩

/-! ### The bytes of an access -/

/-- One byte of an access has a physical address exactly where it translates, and for a load with store check a store to
it would translate too (20_memory.md R139, R142). -/
theorem physical_eq_some {s : State} {lin p : Word} {kind : AccessKind} :
    physical s lin kind = some p ↔
      translate s lin kind = some p ∧ (kind = .readwrite → translate s lin .write ≠ none) := by
  unfold physical
  split <;> rename_i h
  · simp only [reduceCtorEq, false_iff, not_and]
    exact fun _ e => e h.1 h.2
  · exact ⟨fun e => ⟨e, fun hk hn => h ⟨hk, hn⟩⟩, fun e => e.1⟩

/-- It has a page fault exactly where one of the two has. -/
theorem physical_eq_none {s : State} {lin : Word} {kind : AccessKind} :
    physical s lin kind = none ↔ translate s lin kind = none ∨ kind = .readwrite ∧ translate s lin .write = none := by
  unfold physical
  split <;> rename_i h
  · simp [h]
  · simp only [iff_self_or]
    exact fun e => absurd e h

/-- The byte at a linear address with its physical address, if it has one in the launch memory. -/
def cellAt (s : State) (kind : AccessKind) (lin : Word) : Option Host.Cell :=
  (physical s lin kind).bind fun p => (s.mem.lookup p.toNat).map fun b => (p.toNat, b)

/-- The bytes of an access. -/
theorem accessCells_ok {s : State} {ea : Word} {kind : AccessKind} {ls : List Word} {cs : List Host.Cell} :
    accessCells s ea kind ls = .ok cs ↔ ls.map (cellAt s kind) = cs.map some := by
  induction ls generalizing cs with
  | nil => cases cs <;> simp [accessCells]
  | cons l ls ih =>
    cases h : physical s l kind with
    | none => cases cs <;> simp [accessCells, cellAt, h, raise]
    | some p =>
      cases hb : s.mem.lookup p.toNat with
      | none => cases cs <;> simp [accessCells, cellAt, h, hb, raise]
      | some b =>
        have hc : cellAt s kind l = some (p.toNat, b) := by simp [cellAt, h, hb]
        simp only [accessCells, h, hb, res_bind_ok, res_pure, Except.ok.injEq, List.map_cons, hc]
        constructor
        · rintro ⟨ds, hd, rfl⟩
          simp [ih.mp hd]
        · intro e
          cases cs with
          | nil => simp at e
          | cons c cs =>
            simp only [List.map_cons, List.cons.injEq, Option.some.injEq] at e
            exact ⟨cs, ih.mpr e.2, by rw [e.1]⟩

/-- An access to bytes stops at the first of them that is not there, with its page fault or stuck (20_memory.md R140). -/
theorem accessCells_error {s : State} {ea : Word} {kind : AccessKind} {ls : List Word} {e : Stop} :
    accessCells s ea kind ls = .error e ↔
      ∃ j, ∃ h : j < ls.length, (∀ m, (hm : m < ls.length) → m < j → cellAt s kind ls[m] ≠ none) ∧
        (physical s ls[j] kind = none ∧ e = .fault (.pageFault ea kind s.pc) ∨
          ∃ p, physical s ls[j] kind = some p ∧ s.mem.lookup p.toNat = none ∧ e = .fault (.stuck p.toNat s.pc)) := by
  induction ls with
  | nil => simp [accessCells]
  | cons l ls ih =>
    have head : cellAt s kind l = none → ∀ {q : Stop → Word → Prop},
        (∃ j, ∃ h : j < (l :: ls).length,
          (∀ m, (hm : m < (l :: ls).length) → m < j → cellAt s kind (l :: ls)[m] ≠ none) ∧ q e (l :: ls)[j]) ↔ q e l := by
      intro hn q
      constructor
      · rintro ⟨j, hj, hm, hq⟩
        cases j with
        | zero => exact hq
        | succ j => exact absurd hn (hm 0 (by simp) (by omega))
      · exact fun hq => ⟨0, by simp, fun m _ hm => absurd hm (by omega), hq⟩
    cases h : physical s l kind with
    | none =>
      refine Iff.trans ?_ (head (by simp [cellAt, h]) (q := fun e x => physical s x kind = none ∧
        e = .fault (.pageFault ea kind s.pc) ∨ ∃ p, physical s x kind = some p ∧ s.mem.lookup p.toNat = none ∧
        e = .fault (.stuck p.toNat s.pc))).symm
      simp [accessCells, h, raise, eq_comm]
    | some p =>
      cases hb : s.mem.lookup p.toNat with
      | none =>
        refine Iff.trans ?_ (head (by simp [cellAt, h, hb]) (q := fun e x => physical s x kind = none ∧
          e = .fault (.pageFault ea kind s.pc) ∨ ∃ p, physical s x kind = some p ∧ s.mem.lookup p.toNat = none ∧
          e = .fault (.stuck p.toNat s.pc))).symm
        simp [accessCells, h, hb, raise, eq_comm]
      | some b =>
        simp only [accessCells, h, hb, res_bind_error, res_pure, reduceCtorEq, and_false, exists_false, or_false, ih]
        constructor
        · rintro ⟨j, hj, hm, hq⟩
          refine ⟨j + 1, by simpa using hj, fun m hml hmj => ?_, by simpa using hq⟩
          cases m with
          | zero => simp [cellAt, h, hb]
          | succ m => exact hm m (by simpa using hml) (by omega)
        · rintro ⟨j, hj, hm, hq⟩
          cases j with
          | zero => simp [h, hb] at hq
          | succ j =>
            refine ⟨j, by simpa using hj, fun m hml hmj => ?_, by simpa using hq⟩
            exact hm (m + 1) (by simpa using hml) (by omega)

/-- `SegCheck` as a load with store check asks it. -/
theorem segAllows_eq_true {s : State} {seg : Seg} {ea : Word} {n : Nat} {kind : AccessKind} :
    segAllows s seg ea n kind = true ↔
      segCheck s seg ea n kind = true ∧ (kind = .readwrite → segCheck s seg ea n .write = true) := by
  cases kind <;> simp [segAllows]

/-- An access answers exactly when it is to ordinary memory, aligned where that is asked, admitted by `SegCheck`, and all
its bytes are there. -/
theorem access_ok {s : State} {seg : Seg} {ea : Word} {n : Nat} {kind : AccessKind} {cs : List Host.Cell} :
    access s seg ea n kind = .ok cs ↔
      seg ≠ .ms ∧ alignedOk s ea n = true ∧ segAllows s seg ea n kind = true ∧
        (linearAddrs s seg ea n).map (cellAt s kind) = cs.map some := by
  simp only [access, res_bind_ok, refuseUnless_ok, raiseUnless_ok, accessCells_ok]
  simp

/-- How an access stops, in its order. -/
theorem access_error {s : State} {seg : Seg} {ea : Word} {n : Nat} {kind : AccessKind} {e : Stop} :
    access s seg ea n kind = .error e ↔
      (seg = .ms ∧ e = .refusal (.specialMemory s.pc)) ∨
        (seg ≠ .ms ∧ alignedOk s ea n = false ∧ e = .refusal (.misaligned s.pc)) ∨
          (seg ≠ .ms ∧ alignedOk s ea n = true ∧ segAllows s seg ea n kind = false ∧
            e = .fault (.segFault seg ea s.pc)) ∨
            (seg ≠ .ms ∧ alignedOk s ea n = true ∧ segAllows s seg ea n kind = true ∧
              accessCells s ea kind (linearAddrs s seg ea n) = .error e) := by
  simp only [access, res_bind_error, refuseUnless_error, refuseUnless_ok, raiseUnless_error, raiseUnless_ok, exists_const]
  simp [and_or_left]

/-- One byte of an access, as the terms of Safety.lean say it. -/
theorem cellAt_eq_some {s : State} {seg : Seg} {ea : Word} {kind : AccessKind} {i p : Nat} {b : Byte} :
    cellAt s kind (segBase s seg + ea + BitVec.ofNat 32 i) = some (p, b) ↔
      byteAddr s seg ea kind i = some p ∧ s.mem.lookup p = some b ∧ storeTranslates s seg ea kind i := by
  simp only [cellAt, Option.bind_eq_some_iff, physical_eq_some, Option.map_eq_some_iff, Prod.mk.injEq, byteAddr,
    storeTranslates, ne_eq, Option.map_eq_none_iff]
  constructor
  · rintro ⟨q, ⟨h1, h2⟩, b', h3, rfl, rfl⟩
    exact ⟨⟨q, h1, rfl⟩, h3, h2⟩
  · rintro ⟨⟨q, h1, rfl⟩, h3, h2⟩
    exact ⟨q, ⟨h1, h2⟩, b, h3, rfl, rfl⟩

/-- A byte of an access is there exactly when it lies in the launch memory and a load with store check may store there. -/
theorem cellAt_ne_none {s : State} {seg : Seg} {ea : Word} {kind : AccessKind} {i : Nat} :
    cellAt s kind (segBase s seg + ea + BitVec.ofNat 32 i) ≠ none ↔
      byteAt s seg ea kind i ≠ none ∧ storeTranslates s seg ea kind i := by
  rw [Option.ne_none_iff_exists', Option.ne_none_iff_exists']
  constructor
  · rintro ⟨⟨p, b⟩, h⟩
    obtain ⟨h1, h2, h3⟩ := cellAt_eq_some.mp h
    exact ⟨⟨b, by simp [byteAt, h1, h2]⟩, h3⟩
  · rintro ⟨⟨b, h⟩, h3⟩
    obtain ⟨p, h1, h2⟩ := Option.bind_eq_some_iff.mp h
    exact ⟨(p, b), cellAt_eq_some.mpr ⟨h1, h2, h3⟩⟩

/-- The linear addresses: as many as bytes, and taken one by one. -/
@[simp] theorem linearAddrs_length (s : State) (seg : Seg) (ea : Word) (n : Nat) :
    (linearAddrs s seg ea n).length = n := by
  simp [linearAddrs]

@[simp] theorem linearAddrs_getElem (s : State) (seg : Seg) (ea : Word) (n : Nat) (i : Nat)
    (h : i < (linearAddrs s seg ea n).length) :
    (linearAddrs s seg ea n)[i] = segBase s seg + ea + BitVec.ofNat 32 i := by
  simp [linearAddrs]

/-! ### The access primitives -/

/-- What an access that nothing stops answers: its bytes with their addresses. -/
theorem Accessible.cells {s : State} {seg : Seg} {ea : Word} {n : Nat} {kind : AccessKind}
    (h : Accessible s seg ea n kind) :
    ∃ cs : List Host.Cell, access s seg ea n kind = .ok cs ∧ cs.length = n ∧
      ∀ i, (hi : i < cs.length) → byteAddr s seg ea kind i = some cs[i].1 ∧ byteAt s seg ea kind i = some cs[i].2 := by
  have hc : ∀ i, i < n → cellAt s kind (segBase s seg + ea + BitVec.ofNat 32 i) ≠ none := fun i hi =>
    cellAt_ne_none.mpr ⟨Option.isSome_iff_ne_none.mp (h.mapped i hi), h.storeMapped i hi⟩
  have key : ∀ ls : List Word, (∀ l ∈ ls, cellAt s kind l ≠ none) →
      ∃ cs : List Host.Cell, ls.map (cellAt s kind) = cs.map some := by
    intro ls hl
    induction ls with
    | nil => exact ⟨[], rfl⟩
    | cons l ls ih =>
      obtain ⟨cs, e⟩ := ih fun x hx => hl x (List.mem_cons_of_mem _ hx)
      obtain ⟨c, hc⟩ := Option.ne_none_iff_exists'.mp (hl l List.mem_cons_self)
      exact ⟨c :: cs, by simp [hc, e]⟩
  obtain ⟨cs, e⟩ := key (linearAddrs s seg ea n) (by
    intro l hl
    obtain ⟨i, hi, rfl⟩ := List.getElem_of_mem hl
    rw [linearAddrs_getElem]
    exact hc i (by simpa using hi))
  have hl : cs.length = n := by simpa using (congrArg List.length e).symm
  refine ⟨cs, access_ok.mpr ⟨h.ordinary, h.aligned, segAllows_eq_true.mpr ⟨h.allowed, h.storeAllowed⟩, e⟩, hl, ?_⟩
  intro i hi
  have := congrArg (fun l => l[i]?) e
  simp only [List.getElem?_map, List.getElem?_eq_getElem hi,
    List.getElem?_eq_getElem (show i < (linearAddrs s seg ea n).length by simpa using hl ▸ hi), linearAddrs_getElem,
    Option.map_some, Option.some.injEq] at this
  obtain ⟨h1, h2, -⟩ := cellAt_eq_some.mp this
  exact ⟨h1, by rw [byteAt, h1]; exact h2⟩

/-- `MemRead` of an access that nothing stops gives the value of its bytes (20_memory.md R140, R143). -/
theorem memRead_accessible {s : State} {seg : Seg} {ea : Word} {n : Nat} {kind : AccessKind}
    (h : Accessible s seg ea n kind) (hn : n ≤ 8) :
    ∃ v, memRead s seg ea n kind = .ok v ∧ ReadsAs s seg ea kind n v := by
  obtain ⟨cs, ha, hl, hb⟩ := h.cells
  refine ⟨fromBytes (cs.map fun c => c.2), by simp [memRead, ha], fun i hi => ?_⟩
  rw [(hb i (by omega)).2, fromBytes_byte _ i (by simpa using hl ▸ hi) (by simpa using hl ▸ hn)]
  simp

/-- `MemWrite` of an access that nothing stops stores the value and changes nothing else (20_memory.md R141). -/
theorem memWrite_accessible {s : State} {seg : Seg} {ea : Word} {n : Nat} (v : DWord)
    (h : Accessible s seg ea n .write) :
    ∃ m, memWrite s seg ea n v = .ok (s.withMem m) ∧ StoredAt s (s.withMem m) seg ea n v := by
  obtain ⟨cs, ha, hl, hb⟩ := h.cells
  obtain ⟨ps, hps⟩ : ∃ ps : List Nat, ps = cs.map fun c => c.1 := ⟨_, rfl⟩
  have hlp : ps.length = n := by simpa [hps] using hl
  have had : ∀ i, (hi : i < ps.length) → byteAddr s seg ea .write i = some ps[i] := by
    intro i hi
    subst hps
    simpa using (hb i (by simpa using hi)).1
  refine ⟨storeBytes s.mem ps v, by simp [memWrite, ha, hps], ?_, ?_⟩
  · intro p hp
    rw [State.withMem_mem, lookup_storeBytes_other]
    intro hmem
    obtain ⟨i, hi, rfl⟩ := List.getElem_of_mem hmem
    exact hp i (hlp ▸ hi) (had i hi)
  · intro i p hi e hlast
    have hi' : i < ps.length := by omega
    have hpi : p = ps[i] := by
      have := had i hi'
      rw [e] at this
      exact Option.some.inj this
    subst hpi
    rw [State.withMem_mem]
    refine lookup_storeBytes_at _ _ _ i hi' ?_ ?_
    · have := h.mapped i hi
      simpa [byteAt, had i hi'] using this
    · intro j hj hij e'
      exact hlast j hij (by omega) (by rw [had j hj, e'])

/-- What `MemWrite` answers is the state with a memory of the same addresses and the same form. -/
theorem memWrite_ok {s t : State} {seg : Seg} {ea : Word} {n : Nat} {v : DWord}
    (h : memWrite s seg ea n v = .ok t) :
    ∃ cs, access s seg ea n .write = .ok cs ∧ t = s.withMem (storeBytes s.mem (cs.map fun c => c.1) v) := by
  simp only [memWrite, res_bind_ok, res_pure, Except.ok.injEq] at h
  obtain ⟨cs, hc, rfl⟩ := h
  exact ⟨cs, hc, rfl⟩

end Sys2Proof.Machine
end

