-- ==== Sys2Proof/Laws/Registers.lean ====
section
/-! SUPPORT. What a read of a register gives after a write of one: by storage number, and by name and size bit by bit
(10_state.md R33 to R37). -/

namespace Sys2Proof.Machine

/-! ### Storage -/

/-- t0 reads zero (10_state.md R34). -/
@[simp] theorem getSlot_t0 (s : State) : getSlot s t0Slot = 0 := by
  simp [getSlot]

/-- What every storage number reads after a write of one. -/
theorem getSlot_setSlot (s : State) (j k : Fin 24) (v : Word) :
    getSlot (setSlot s j v) k = if k = j ∧ k ≠ t0Slot then v else getSlot s k := by
  by_cases hj : j = t0Slot
  · subst hj
    by_cases hk : k = t0Slot
    · simp [setSlot, hk]
    · simp [setSlot, hk]
  · by_cases hk : k = t0Slot
    · subst hk; simp
    · simp only [getSlot, setSlot, if_neg hj, State.withRegs_regs, ne_eq, hk, not_false_eq_true, and_true]
      by_cases h : k = j
      · subst h; simp
      · have h' : (j : Nat) ≠ k := fun e => h (Fin.ext e.symm)
        simp [h, h']

/-- A state with the same registers reads the same. -/
theorem getSlot_congr {s t : State} (h : t.regs = s.regs) (k : Fin 24) : getSlot t k = getSlot s k := by
  simp [getSlot, h]

@[simp] theorem getSlot_advance (s : State) (k : Fin 24) : getSlot s.advance k = getSlot s k := rfl
@[simp] theorem getSlot_withFlags (s : State) (v : Flags) (k : Fin 24) : getSlot (s.withFlags v) k = getSlot s k := rfl
@[simp] theorem getSlot_withMm (s : State) (v : Vector DWord 8) (k : Fin 24) : getSlot (s.withMm v) k = getSlot s k := rfl
@[simp] theorem getSlot_withMmt1 (s : State) (v : DWord) (k : Fin 24) : getSlot (s.withMmt1 v) k = getSlot s k := rfl
@[simp] theorem getSlot_withBr (s : State) (v : Bool) (k : Fin 24) : getSlot (s.withBr v) k = getSlot s k := rfl
@[simp] theorem getSlot_withSr (s : State) (v : SpecialRegs) (k : Fin 24) : getSlot (s.withSr v) k = getSlot s k := rfl
@[simp] theorem getSlot_withMem (s : State) (v : Memory) (k : Fin 24) : getSlot (s.withMem v) k = getSlot s k := rfl
@[simp] theorem getSlot_drew (s : State) (k : Fin 24) : getSlot s.drew k = getSlot s k := rfl
@[simp] theorem getSlot_recordLock (s : State) (seg : Seg) (ea : Word) (n : Nat) (k : Fin 24) :
    getSlot (recordLock s seg ea n) k = getSlot s k := rfl
@[simp] theorem getSlot_applyStatus (s : State) (st : Option Ext4) (v : FlagValues) (k : Fin 24) :
    getSlot (applyStatus s st v) k = getSlot s k := by
  cases st <;> rfl
@[simp] theorem getSlot_setMm (s : State) (r : MmSlot) (v : DWord) (k : Fin 24) :
    getSlot (setMm s r v) k = getSlot s k := by
  cases r <;> rfl

/-! ### MMX/3D registers -/

/-- What every MMX/3D register reads after a write of one. -/
theorem getMm_setMm (s : State) (r q : MmSlot) (v : DWord) :
    getMm (setMm s r v) q = if q = r then v else getMm s q := by
  cases r with
  | mm j =>
    cases q with
    | mm k =>
      by_cases h : k = j
      · subst h; simp [getMm, setMm]
      · have h' : (j : Nat) ≠ k := fun e => h (Fin.ext e.symm)
        simp [getMm, setMm, h, h']
    | t1 => simp [getMm, setMm]
  | t1 =>
    cases q with
    | mm k => simp [getMm, setMm]
    | t1 => simp [getMm, setMm]

/-- A state with the same MMX/3D registers reads the same. -/
theorem getMm_congr {s t : State} (h : t.mm = s.mm) (h' : t.mmt1 = s.mmt1) (q : MmSlot) : getMm t q = getMm s q := by
  cases q <;> simp [getMm, h, h']

/-! ### Named writes -/

/-- The bits of a register with its low word replaced. -/
theorem getLsbD_mergeWord (r : Word) (v : BitVec 16) (i : Nat) (hi : i < 32) :
    (mergeWord r v).getLsbD i = if i < 16 then v.getLsbD i else r.getLsbD i := by
  unfold mergeWord
  rw [BitVec.getLsbD_append, BitVec.getLsbD_extractLsb']
  by_cases h : i < 16
  · simp [h]
  · rw [if_neg h, if_neg h, show 16 + (i - 16) = i by omega]
    simp; omega

/-- The bits of a register with one byte replaced. -/
theorem getLsbD_mergeByte (r : Word) (high : Bool) (v : BitVec 8) (i : Nat) (hi : i < 32) :
    (mergeByte r high v).getLsbD i =
      if (if high then 8 else 0) ≤ i ∧ i < (if high then 8 else 0) + 8 then v.getLsbD (i - if high then 8 else 0)
      else r.getLsbD i := by
  cases high with
  | true =>
    simp only [mergeByte, if_true, BitVec.getLsbD_append, BitVec.getLsbD_extractLsb']
    by_cases h1 : i < 8
    · simp [h1]
    · by_cases h2 : i < 16
      · simp [h1, h2, show i - 8 < 8 by omega]
      · rw [if_neg h1, if_neg (show ¬i - 8 < 8 by omega), if_neg (show ¬(8 ≤ i ∧ i < 8 + 8) by omega),
          show 16 + (i - 8 - 8) = i by omega]
        simp; omega
  | false =>
    simp only [mergeByte, Bool.false_eq_true, if_false, BitVec.getLsbD_append, BitVec.getLsbD_extractLsb']
    by_cases h1 : i < 8
    · simp [h1]
    · rw [if_neg h1, if_neg (show ¬(0 ≤ i ∧ i < 0 + 8) by omega), show 8 + (i - 8) = i by omega]
      simp; omega

/-- `wr` writes exactly the named bits (10_state.md R36, R37). -/
theorem wr_bits (s : State) (n : RegNum) (sz : Size) (v : BitVec sz.bits) (k : Fin 24) (i : Nat) (hi : i < 32) :
    (getSlot (wr s n sz v) k).getLsbD i =
      if k = namedSlot s.env n sz ∧ k ≠ t0Slot ∧ namedLow s.env n sz ≤ i ∧ i < namedLow s.env n sz + sz.bits then
        v.getLsbD (i - namedLow s.env n sz)
      else (getSlot s k).getLsbD i := by
  cases sz with
  | four =>
    show (getSlot (setSlot s (slotOf s.env n) v) k).getLsbD i = _
    rw [getSlot_setSlot]
    by_cases h : k = slotOf s.env n ∧ k ≠ t0Slot
    · rw [if_pos h, if_pos ⟨h.1, h.2, Nat.zero_le _, by simpa [namedLow, Size.bits] using hi⟩]
      simp [namedLow]
    · rw [if_neg h, if_neg (fun c => h ⟨c.1, c.2.1⟩)]
  | two =>
    show (getSlot (setSlot s (slotOf s.env n) (mergeWord (reg32 s n) v)) k).getLsbD i = _
    rw [getSlot_setSlot]
    by_cases h : k = slotOf s.env n ∧ k ≠ t0Slot
    · rw [if_pos h, getLsbD_mergeWord _ _ _ hi]
      by_cases h16 : i < 16
      · rw [if_pos h16, if_pos ⟨h.1, h.2, Nat.zero_le _, by simpa [namedLow, Size.bits] using h16⟩]
        simp [namedLow]
      · rw [if_neg h16, if_neg (fun c => h16 (by simpa [namedLow, Size.bits] using c.2.2.2)), h.1]
        rfl
    · rw [if_neg h, if_neg (fun c => h ⟨c.1, c.2.1⟩)]
  | one =>
    show (getSlot (setSlot s (byteSlot s.env n)
      (mergeByte (getSlot s (byteSlot s.env n)) (byteIsHigh s.env n) v)) k).getLsbD i = _
    rw [getSlot_setSlot]
    by_cases h : k = byteSlot s.env n ∧ k ≠ t0Slot
    · rw [if_pos h, getLsbD_mergeByte _ _ _ _ hi]
      by_cases hb : (if byteIsHigh s.env n = true then 8 else 0) ≤ i ∧
          i < (if byteIsHigh s.env n = true then 8 else 0) + 8
      · exact (if_pos hb).trans (if_pos ⟨h.1, h.2, hb⟩).symm
      · rw [if_neg hb, if_neg (fun c => hb c.2.2), h.1]
    · rw [if_neg h, if_neg (fun c => h ⟨c.1, c.2.1⟩)]

/-- A 1-byte name never stands for t0 (10_state.md R36). -/
theorem byteSlot_ne_t0 (e : Env) (n : RegNum) : byteSlot e n ≠ t0Slot := by
  intro h
  have h' := congrArg Fin.val h
  simp only [byteSlot, t0Slot] at h'
  split at h' <;> simp at h' <;> omega

/-- A read of a register, bit by bit (10_state.md R35, R36). -/
theorem rd_bits (s : State) (n : RegNum) (sz : Size) (i : Nat) (hi : i < sz.bits) :
    (rd s n sz).getLsbD i = (getSlot s (namedSlot s.env n sz)).getLsbD (namedLow s.env n sz + i) := by
  cases sz with
  | four => simp [rd, reg32, namedSlot, namedLow]
  | two =>
    show ((reg32 s n).extractLsb' 0 16).getLsbD i = _
    rw [BitVec.getLsbD_extractLsb']
    simp only [Size.bits] at hi
    simp [hi, namedLow, namedSlot, reg32]
  | one =>
    show ((getSlot s (byteSlot s.env n)).extractLsb' (if byteIsHigh s.env n then 8 else 0) 8).getLsbD i = _
    rw [BitVec.getLsbD_extractLsb']
    simp only [Size.bits] at hi
    simp [hi, namedLow, namedSlot]

/-- A register reads the same in a state with the same registers and the same environment. -/
theorem rd_congr {s t : State} (h : t.regs = s.regs) (he : t.env = s.env) (n : RegNum) (sz : Size) :
    rd t n sz = rd s n sz := by
  cases sz <;> simp [rd, reg32, getSlot_congr h, he]

end Sys2Proof.Machine
end

