-- ==== Sys2Proof/Laws/Flags.lean ====
section
/-! SUPPORT. The flag computations in integer arithmetic, and what a write of flags does to each of them
(41_regops.md R269). -/

namespace Sys2Proof.Machine

/-- The value a RegOp computes for a flag; it computes none for ECF and EZF. -/
def FlagValues.get (v : FlagValues) : FlagName → Bool
  | .of => v.of
  | .cf => v.cf
  | .zf => v.zf
  | .sf => v.sf
  | .pf => v.pf
  | .af => v.af
  | .ecf => false
  | .ezf => false

/-- The parity flag counts the ones of the low byte. -/
theorem parity_eq {w : Nat} (r : BitVec w) : parity r = evenParity r := by
  unfold parity evenParity
  rw [show List.range 8 = [0, 1, 2, 3, 4, 5, 6, 7] from rfl]
  simp only [List.countP_cons, List.countP_nil]
  generalize r.getLsbD 0 = b0
  generalize r.getLsbD 1 = b1
  generalize r.getLsbD 2 = b2
  generalize r.getLsbD 3 = b3
  generalize r.getLsbD 4 = b4
  generalize r.getLsbD 5 = b5
  generalize r.getLsbD 6 = b6
  generalize r.getLsbD 7 = b7
  revert b0 b1 b2 b3 b4 b5 b6 b7
  decide

/-- The zero flag as a number. -/
theorem zero_eq {w : Nat} (r : BitVec w) : (r == 0) = decide (r.toNat = 0) := by
  rw [Bool.eq_iff_iff]
  simp [BitVec.toNat_eq]

/-- The sign flag as a number. -/
theorem sign_eq {w : Nat} (r : BitVec w) : r.msb = decide (r.toInt < 0) := by
  rw [BitVec.msb_eq_toInt]

/-- The sum as a number. -/
theorem aluAdd_toNat {w : Nat} (a b : BitVec w) (c : Bool) (hw : 0 < w) :
    (aluAdd a b c).res.toNat = (a.toNat + b.toNat + c.toNat) % 2 ^ w := by
  have h1 : c.toNat < 2 ^ w := by
    have := Nat.one_lt_two_pow (Nat.ne_of_gt hw)
    cases c
    · simp
    · simpa using this
  simp only [aluAdd, BitVec.toNat_add, BitVec.toNat_ofNat, Nat.mod_eq_of_lt h1, Nat.mod_add_mod]

/-- The difference as a number: adding it back gives the minuend. -/
theorem aluSub_toNat {w : Nat} (a b : BitVec w) (c : Bool) (hw : 0 < w) :
    ((aluSub a b c).res.toNat + b.toNat + c.toNat) % 2 ^ w = a.toNat := by
  have h1 : c.toNat < 2 ^ w := by
    have := Nat.one_lt_two_pow (Nat.ne_of_gt hw)
    cases c
    · simp
    · simpa using this
  have h : (a - b - BitVec.ofNat w c.toNat) + b + BitVec.ofNat w c.toNat = a := by
    rw [BitVec.add_assoc, BitVec.add_comm b, ← BitVec.add_assoc, BitVec.sub_add_cancel, BitVec.sub_add_cancel]
  have := congrArg BitVec.toNat h
  simpa only [aluSub, BitVec.toNat_add, BitVec.toNat_ofNat, Nat.mod_eq_of_lt h1, Nat.mod_add_mod] using this

/-- The overflow flag of the add group is signed overflow. -/
theorem add_overflow {w : Nat} (a b : BitVec w) (c : Bool) (hw : 0 < w) :
    ((a.msb == b.msb) && ((aluAdd a b c).res.msb != a.msb)) = signedOverflow w (a.toInt + b.toInt + c.toNat) := by
  obtain ⟨k, rfl⟩ : ∃ k, w = k + 1 := ⟨w - 1, by omega⟩
  have hr := aluAdd_toNat a b c hw
  have hp : 2 ^ (k + 1) = 2 * 2 ^ k := by rw [Nat.pow_succ, Nat.mul_comm]
  have ha := a.isLt
  have hb := b.isLt
  have hc : c.toNat ≤ 1 := by cases c <;> simp
  generalize hx : (aluAdd a b c).res = r at hr
  have e : ∀ x : BitVec (k + 1), x.msb = decide (2 ^ k ≤ x.toNat) := fun x => by
    rw [BitVec.msb_eq_decide]; simp
  have t : ∀ x : BitVec (k + 1), x.toInt = if 2 ^ k ≤ x.toNat then (x.toNat : Int) - 2 * (2 ^ k : Nat) else x.toNat := by
    intro x
    rw [BitVec.toInt_eq_msb_cond, e x]
    simp only [decide_eq_true_eq, hp]
    push_cast
    rfl
  rw [hp] at ha hb hr
  rw [Bool.eq_iff_iff]
  simp only [signedOverflow, t, e, Bool.and_eq_true, beq_iff_eq, bne_iff_ne, ne_eq, decide_eq_decide,
    decide_eq_true_eq, Nat.add_sub_cancel]
  rw [show ((2 : Int) ^ k) = ((2 ^ k : Nat) : Int) by push_cast; rfl]
  generalize 2 ^ k = P at *
  have hm : r.toNat = a.toNat + b.toNat + c.toNat ∨ r.toNat + 2 * P = a.toNat + b.toNat + c.toNat := by
    by_cases h : a.toNat + b.toNat + c.toNat < 2 * P
    · left; rw [hr, Nat.mod_eq_of_lt h]
    · right; rw [hr, Nat.mod_eq_sub_mod (by omega), Nat.mod_eq_of_lt (by omega)]; omega
  have hrlt : r.toNat < 2 * P := by rw [hr]; exact Nat.mod_lt _ (by omega)
  split <;> split <;> omega

/-- The overflow flag of the sub group is signed overflow. -/
theorem sub_overflow {w : Nat} (a b : BitVec w) (c : Bool) (hw : 0 < w) :
    ((a.msb != b.msb) && ((aluSub a b c).res.msb != a.msb)) = signedOverflow w (a.toInt - b.toInt - c.toNat) := by
  obtain ⟨k, rfl⟩ : ∃ k, w = k + 1 := ⟨w - 1, by omega⟩
  have hr := aluSub_toNat a b c hw
  have hp : 2 ^ (k + 1) = 2 * 2 ^ k := by rw [Nat.pow_succ, Nat.mul_comm]
  have ha := a.isLt
  have hb := b.isLt
  have hc : c.toNat ≤ 1 := by cases c <;> simp
  have hlt := (aluSub a b c).res.isLt
  generalize hx : (aluSub a b c).res = r at hr hlt
  have e : ∀ x : BitVec (k + 1), x.msb = decide (2 ^ k ≤ x.toNat) := fun x => by
    rw [BitVec.msb_eq_decide]; simp
  have t : ∀ x : BitVec (k + 1), x.toInt = if 2 ^ k ≤ x.toNat then (x.toNat : Int) - 2 * (2 ^ k : Nat) else x.toNat := by
    intro x
    rw [BitVec.toInt_eq_msb_cond, e x]
    simp only [decide_eq_true_eq, hp]
    push_cast
    rfl
  rw [hp] at ha hb hr hlt
  rw [Bool.eq_iff_iff]
  simp only [signedOverflow, t, e, Bool.and_eq_true, bne_iff_ne, ne_eq, decide_eq_decide,
    decide_eq_true_eq, Nat.add_sub_cancel]
  rw [show ((2 : Int) ^ k) = ((2 ^ k : Nat) : Int) by push_cast; rfl]
  generalize 2 ^ k = P at *
  have hm : r.toNat + b.toNat + c.toNat = a.toNat ∨ r.toNat + b.toNat + c.toNat = a.toNat + 2 * P := by
    by_cases h : r.toNat + b.toNat + c.toNat < 2 * P
    · left; rw [← hr, Nat.mod_eq_of_lt h]
    · right
      by_cases h' : r.toNat + b.toNat + c.toNat < 2 * (2 * P)
      · rw [← hr, Nat.mod_eq_sub_mod (by omega), Nat.mod_eq_of_lt (by omega)]; omega
      · exfalso; omega
  split <;> split <;> omega

/-- The flags of the add group (41_regops.md R269). -/
theorem aluAdd_flag {w : Nat} (a b : BitVec w) (c : Bool) (hw : 0 < w) (f : FlagName) :
    (aluAdd a b c).flags.get f = addFlag a b c (aluAdd a b c).res f := by
  cases f
  · exact add_overflow a b c hw
  · rfl
  · exact zero_eq _
  · exact sign_eq _
  · exact parity_eq _
  · rfl
  · rfl
  · rfl

/-- The flags of the sub group (41_regops.md R269). -/
theorem aluSub_flag {w : Nat} (a b : BitVec w) (c : Bool) (hw : 0 < w) (f : FlagName) :
    (aluSub a b c).flags.get f = subFlag a b c (aluSub a b c).res f := by
  cases f
  · exact sub_overflow a b c hw
  · rfl
  · exact zero_eq _
  · exact sign_eq _
  · exact parity_eq _
  · rfl
  · rfl
  · rfl

/-- The flags of the logic group (41_regops.md R269). -/
theorem logicFlags_flag {w : Nat} (r : BitVec w) (af : Bool) (f : FlagName) :
    (logicFlags r af).get f = logicFlag r af f := by
  cases f
  · rfl
  · rfl
  · exact zero_eq _
  · exact sign_eq _
  · exact parity_eq _
  · rfl
  · rfl
  · rfl

/-- A write of selected flags, flag by flag; ECF and EZF are never written. -/
theorem writeFlags_get (old : Flags) (sel : List FlagName) (v : FlagValues) (f : FlagName)
    (he : f ≠ .ecf) (hz : f ≠ .ezf) :
    (writeFlags old sel v).get f = if f ∈ sel then v.get f else old.get f := by
  cases f <;> simp_all [writeFlags, Flags.get, FlagValues.get]

/-- On an admitted status field `applyStatus` writes the selected flags and no other (10_state.md R42). -/
theorem applyStatus_flagsAfter {s s1 : State} {st : Option Ext4} {v : FlagValues} (h : StatusAdmitted st s)
    (hf : s1.flags = s.flags) (hp : s1.params = s.params) {t : State}
    (ht : t.flags = (applyStatus s1 st v).flags) : FlagsAfter s t st v.get := by
  intro f
  cases st with
  | none => simp [ht, hf]
  | some ext =>
    rw [ht, applyStatus_flags_some, hf, hp]
    obtain ⟨-, h1, h2⟩ := h ext rfl
    by_cases he : f = .ecf
    · subst he; simp [h1, writeFlags, Flags.get]
    · by_cases hz : f = .ezf
      · subst hz; simp [h2, writeFlags, Flags.get]
      · simp [writeFlags_get _ _ _ _ he hz]

end Sys2Proof.Machine
end

