-- ==== Sys2Proof/Laws/Meanings.lean ====
section
/-! SUPPORT. Each shared form of a meaning said once: when it answers, and with which state. -/

namespace Sys2Proof.Machine

/-! ### RegOps of Table 2.31 -/

/-- An adding or subtracting RegOp answers exactly on the admitted forms (41_regops.md R268, R269). -/
theorem arithOp_ok {f : {w : Nat} → BitVec w → BitVec w → Alu w} {writes t0 : Bool} {st : Option Ext4}
    {o : RegOperands} {s t : State} :
    arithOp f writes t0 st o s = .ok t ↔ ArithAdmitted t0 st o s ∧
      t = (applyStatus
        (if writes then wr s o.dest (regSize s.env o.dsz)
          (f (rd s o.src1 (regSize s.env o.dsz)) (src2Value s (regSize s.env o.dsz) o.src2)).res else s) st
        (f (rd s o.src1 (regSize s.env o.dsz)) (src2Value s (regSize s.env o.dsz) o.src2)).flags).advance := by
  simp only [arithOp, res_bind_ok, arithGuard_ok, res_pure, Except.ok.injEq, exists_const]
  exact and_congr Iff.rfl eq_comm

/-- A logic RegOp answers exactly on the admitted forms; AF is the next free value (41_regops.md R269, log 10). -/
theorem logicOp_ok {f : {w : Nat} → BitVec w → BitVec w → BitVec w} {t0 : Bool} {st : Option Ext4}
    {o : RegOperands} {s t : State} :
    logicOp f t0 st o s = .ok t ↔ ArithAdmitted t0 st o s ∧
      t = (applyStatus
        (if st.isSome then (wr s o.dest (regSize s.env o.dsz)
          (f (rd s o.src1 (regSize s.env o.dsz)) (src2Value s (regSize s.env o.dsz) o.src2))).drew
          else wr s o.dest (regSize s.env o.dsz)
            (f (rd s o.src1 (regSize s.env o.dsz)) (src2Value s (regSize s.env o.dsz) o.src2))) st
        (logicFlags (f (rd s o.src1 (regSize s.env o.dsz)) (src2Value s (regSize s.env o.dsz) o.src2))
          (s.drawn.getLsbD 0))).advance := by
  simp only [logicOp, res_bind_ok, arithGuard_ok, res_pure, Except.ok.injEq, exists_const]
  exact and_congr Iff.rfl eq_comm

/-! ### RegOps of Tables 2.32 to 2.34 -/

/-- A shift answers exactly on the admitted forms (41_regops.md R326). -/
theorem shiftOp_ok {f : {w : Nat} → BitVec w → Nat → BitVec w} {t0 : Bool} {st : Option Ext4} {o : RegOperands}
    {s t : State} :
    shiftOp f t0 st o s = .ok t ↔ ShiftAdmitted t0 st o s ∧
      t = (wr s o.dest (regSize s.env o.dsz) (f (rd s o.src1 (regSize s.env o.dsz))
        (shiftCount (src2Value s (regSize s.env o.dsz) o.src2)))).advance := by
  simp only [shiftOp, res_bind_ok, shiftGuard_ok, res_pure, Except.ok.injEq, exists_const]
  exact and_congr Iff.rfl eq_comm

/-- An Op under `regop_fn` answers exactly when the parameter is taken (D15, log 8). -/
theorem regopFnOp_ok {o : RegOperands} {s t : State} :
    regopFnOp o s = .ok t ↔ s.params.regopFn = .free ∧
      t = (wr s.drew o.dest (regSize s.env o.dsz) (s.drawn.setWidth (regSize s.env o.dsz).bits)).advance := by
  simp only [regopFnOp, res_bind_ok, refuseUnless_ok, res_pure, Except.ok.injEq, exists_const, beq_iff_eq]
  exact and_congr Iff.rfl eq_comm

/-- A row of Table 2.32 under `regop_fn`, at sizes other than 1 byte. -/
theorem freeShiftOp_ok {t0 : Bool} {st : Option Ext4} {o : RegOperands} {s t : State} :
    freeShiftOp t0 st o s = .ok t ↔ ShiftAdmitted t0 st o s ∧ o.dsz ≠ .one ∧ regopFnOp o s = .ok t := by
  simp [freeShiftOp, nonByteGuard, res_bind_ok, shiftGuard_ok, refuseUnless_ok]

/-- A 1-byte entry of Table 2.32 under `regop_fn`. -/
theorem freeByteShiftOp_ok {t0 : Bool} {st : Option Ext4} {o : RegOperands} {s t : State} :
    freeByteShiftOp t0 st o s = .ok t ↔ ShiftAdmitted t0 st o s ∧ o.dsz = .one ∧ regopFnOp o s = .ok t := by
  simp [freeByteShiftOp, byteGuard, res_bind_ok, shiftGuard_ok, refuseUnless_ok]

/-- A RegOp of Tables 2.33 and 2.34 under `regop_fn`. -/
theorem freeOp_ok {ss : Bool} {o : RegOperands} {s t : State} :
    freeOp ss o s = .ok t ↔ SpecialAdmitted ss o ∧ regopFnOp o s = .ok t := by
  simp [freeOp, res_bind_ok, specialGuard_ok]

/-- A 1-byte RegOp of Table 2.33 under `regop_fn`. -/
theorem freeByteOp_ok {ss : Bool} {o : RegOperands} {s t : State} :
    freeByteOp ss o s = .ok t ↔ o.rx = false ∧ ss = false ∧ o.dsz = .one ∧ regopFnOp o s = .ok t := by
  simp [freeByteOp, rxGuard, noStatusGuard, byteGuard, res_bind_ok, refuseUnless_ok]

/-- An extension answers exactly in the one-source form (41_regops.md R327). -/
theorem extendOp_ok {f : {w : Nat} → BitVec w → BitVec w} {st : Option Ext4} {o : RegOperands} {s t : State} :
    extendOp f st o s = .ok t ↔ SpecialAdmitted st.isSome o ∧ o.src2 = .reg o.src1 ∧
      t = (wr s o.dest (regSize s.env o.dsz) (f (rd s o.src1 (regSize s.env o.dsz)))).advance := by
  simp only [extendOp, res_bind_ok, specialGuard_ok, oneSourceGuard_ok, res_pure, Except.ok.injEq, exists_const]
  exact and_congr Iff.rfl (and_congr Iff.rfl eq_comm)

/-- MOVcc answers exactly in the form Src1 = Dest with a condition that has a value (41_regops.md R313). -/
theorem movccOp_ok {cc : BitVec 5} {ss : Bool} {o : RegOperands} {s t : State} :
    movccOp cc ss o s = .ok t ↔ SpecialAdmitted ss o ∧ o.src1 = o.dest ∧ ∃ b, cond s cc = .ok b ∧
      t = (if b then wr s o.dest (regSize s.env o.dsz) (src2Value s (regSize s.env o.dsz) o.src2) else s).advance := by
  simp only [movccOp, res_bind_ok, specialGuard_ok, refuseUnless_ok, res_pure, Except.ok.injEq, exists_const,
    beq_iff_eq]
  exact and_congr Iff.rfl (and_congr Iff.rfl (exists_congr fun _ => and_congr Iff.rfl eq_comm))

/-! ### Special registers -/

/-- What every special register holds after one was replaced. -/
theorem SpecialRegs.get_set (f : SpecialRegs) (r q : SR) (v : Word) :
    (f.set r v).get q = if q = r then v else f.get q := by
  cases r <;> cases q <;> rfl

/-- The special register of an Op, where it names one at 4 bytes (41_regops.md R322, R332). -/
theorem srOperand_ok {k : BitVec 5} {ss : Bool} {o : RegOperands} {s : State} {r : SR} :
    srOperand k ss o s = .ok r ↔ SpecialAdmitted ss o ∧ srOfNumber k = some r ∧ regSize s.env o.dsz = .four := by
  simp only [srOperand, res_bind_ok, specialGuard_ok, exists_const]
  refine and_congr Iff.rfl ?_
  cases srOfNumber k with
  | none => simp [refuse]
  | some q =>
    simp only [res_bind_ok, refuseUnless_ok, res_pure, Except.ok.injEq, exists_const, beq_iff_eq, Option.some.injEq]
    exact and_comm

/-- RDxxx answers with the read value of its register (10_state.md R49, 41_regops.md R322). -/
theorem rdxxxOp_ok {k : BitVec 5} {ss : Bool} {o : RegOperands} {s t : State} :
    rdxxxOp k ss o s = .ok t ↔ ∃ r, srOperand k ss o s = .ok r ∧
      t = (wr s.drew o.dest .four (srReadValue s r s.drawn)).advance := by
  simp only [rdxxxOp, res_bind_ok, res_pure, Except.ok.injEq]
  exact exists_congr fun _ => and_congr Iff.rfl eq_comm

/-- WRxxx answers, in the form Src1 = Src2, with the stored fields of its register replaced, when the value sets no
reserved and no action bit, and the numeric-processor state following SR29 (10_state.md R49, R66, 41_regops.md R332). -/
theorem wrxxxOp_ok {k : BitVec 5} {ss : Bool} {o : RegOperands} {s t : State} :
    wrxxxOp k ss o s = .ok t ↔ ∃ r, srOperand k ss o s = .ok r ∧ o.src2 = .reg o.src1 ∧
      reg32 s o.src1 &&& srReservedMask r = 0 ∧ reg32 s o.src1 &&& srActionMask r = 0 ∧
      t = ((s.withSr (s.sr.set r (srWritten s r (reg32 s o.src1)))).withNp
        (npAfter s r (srWritten s r (reg32 s o.src1)))).advance := by
  simp only [wrxxxOp, res_bind_ok, oneSourceGuard_ok, refuseUnless_ok, res_pure, Except.ok.injEq, exists_const,
    beq_iff_eq]
  exact exists_congr fun _ => and_congr Iff.rfl (and_congr Iff.rfl (and_congr Iff.rfl (and_congr Iff.rfl eq_comm)))

/-- BSWAP answers exactly at 4 bytes in the one-source form (41_regops.md R324). -/
theorem bswapOp_ok {st : Option Ext4} {o : RegOperands} {s t : State} :
    bswapOp st o s = .ok t ↔ SpecialAdmitted st.isSome o ∧ regSize s.env o.dsz = .four ∧ o.src2 = .reg o.src1 ∧
      t = (wr s o.dest .four (swapBytes (reg32 s o.src1))).advance := by
  simp only [bswapOp, res_bind_ok, specialGuard_ok, refuseUnless_ok, oneSourceGuard_ok, res_pure, Except.ok.injEq,
    exists_const, beq_iff_eq]
  exact and_congr Iff.rfl (and_congr Iff.rfl (and_congr Iff.rfl eq_comm))

/-! ### LdOps and StOps -/

/-- An integer load answers with what its access read in the data register (40_ldstops.md R223, R224). -/
theorem loadInt_ok {kind : AccessKind} {locked : Bool} {a : Address} {sz : IntSize} {d : RegNum} {s t : State} :
    loadInt kind locked a sz d s = .ok t ↔
      ∃ v, memRead s (segOf s.env a.seg) (effAddr s a) (intSize s.env sz).bytes kind = .ok v ∧
        t = (wr (if locked then recordLock s (segOf s.env a.seg) (effAddr s a) (intSize s.env sz).bytes else s) d
          (intSize s.env sz) (v.setWidth (intSize s.env sz).bits)).advance := by
  simp only [loadInt, res_bind_ok, res_pure, Except.ok.injEq]
  exact exists_congr fun _ => and_congr Iff.rfl eq_comm

/-- The operands of an MMX load or store (10_state.md R39, 30_encoding.md R178). -/
theorem mmOperands_ok {s : State} {sz : FpSize} {d : RegNum} {n : Nat} {r : MmSlot} :
    mmOperands s sz d = .ok (n, r) ↔ fpBytes sz = some n ∧ mmSlotOf s.env d = some r := by
  unfold mmOperands
  split <;> rename_i h1 <;> simp [*, refuse]

/-- An MMX load answers, at 8 bytes, with what its access read in the MMX/3D register (40_ldstops.md R227). -/
theorem loadMm_ok {kind : AccessKind} {locked : Bool} {a : Address} {sz : FpSize} {d : RegNum} {s t : State} :
    loadMm kind locked a sz d s = .ok t ↔
      ∃ r v, fpBytes sz = some 8 ∧ mmSlotOf s.env d = some r ∧
        memRead s (segOf s.env a.seg) (effAddr s a) 8 kind = .ok v ∧
        t = (setMm (if locked then recordLock s (segOf s.env a.seg) (effAddr s a) 8 else s) r v).advance := by
  simp only [loadMm, res_bind_ok, res_pure, Except.ok.injEq, Prod.exists, mmOperands_ok, refuseUnless_ok, exists_const,
    beq_iff_eq]
  constructor
  · rintro ⟨n, r, ⟨h1, h2⟩, rfl, v, h3, rfl⟩
    exact ⟨r, v, h1, h2, h3, rfl⟩
  · rintro ⟨r, v, h1, h2, h3, rfl⟩
    exact ⟨8, r, ⟨h1, h2⟩, rfl, v, h3, rfl⟩

/-- An address check answers with nothing moved (40_ldstops.md R236). -/
theorem checkAddress_ok {a : Address} {n : Nat} {s t : State} :
    checkAddress a n s = .ok t ↔ (∃ ps, checkData s (segOf s.env a.seg) (effAddr s a) n .read = .ok ps) ∧
      t = s.advance := by
  simp only [checkAddress, res_bind_ok, res_pure, Except.ok.injEq]
  constructor
  · rintro ⟨ps, h, rfl⟩; exact ⟨⟨ps, h⟩, rfl⟩
  · rintro ⟨⟨ps, h⟩, rfl⟩; exact ⟨ps, h, rfl⟩

/-- A check of a data address passes exactly where the address is admitted and every byte translates. -/
theorem checkData_ok {s : State} {seg : Seg} {ea : Word} {n : Nat} {kind : AccessKind} {ps : List Nat} :
    checkData s seg ea n kind = .ok ps ↔ seg ≠ .ms ∧ segCheck s seg ea n kind = true ∧
      (List.range n).map (byteAddr s seg ea kind) = ps.map some := by
  simp only [checkData, res_bind_ok, refuseUnless_ok, checkedAddrs_ok]
  simp

/-! ### Conditions -/

/-- A condition has a value exactly when its test has one; CC[0] negates it under `cc0_negates` (42_specops.md R366). -/
theorem cond_ok {s : State} {cc : BitVec 5} {b : Bool} :
    cond s cc = .ok b ↔ ∃ t, condTest s (cc.extractLsb' 1 4) = .ok t ∧
      b = (t ^^ (s.params.cc0Negates && cc.getLsbD 0)) := by
  simp only [cond, res_bind_ok, res_pure, Except.ok.injEq]
  refine exists_congr fun t => and_congr Iff.rfl ?_
  cases h : s.params.cc0Negates && cc.getLsbD 0 <;> cases t <;> simp [eq_comm]

end Sys2Proof.Machine
end

