-- ==== Sys2Proof/Laws/Effect.lean ====
section
/-! SUPPORT. What a step can do, said once: `exec_effect` gives, for every Op that has a next state, what it did to each
part of the state. Statements about all Ops are read off it. -/

namespace Sys2Proof.Machine

/-- A register write writes the same registers in a state with the same registers and environment. -/
theorem wr_regs_congr {s s1 : State} (h : s1.regs = s.regs) (he : s1.env = s.env) (n : RegNum) (sz : Size)
    (v : BitVec sz.bits) : (wr s1 n sz v).regs = (wr s n sz v).regs := by
  have hset : ∀ k w, (setSlot s1 k w).regs = (setSlot s k w).regs := by
    intro k w
    unfold setSlot
    split
    · exact h
    · simp [h]
  cases sz <;> simp [wr, he, reg32, getSlot_congr h, hset]

/-- What an Op that has a next state did, part by part. -/
structure Effect (i : Instr) (s t : State) : Prop where
  pc : t.pc = s.pc + 1
  launch : SameLaunch s t
  regs : t.regs = s.regs ∨ ∃ n sz v, destOf i s.env = some (n, sz) ∧ t.regs = (wr s n sz v).regs
  mmx : (t.mm = s.mm ∧ t.mmt1 = s.mmt1) ∨
    writesMm i = true ∧ ∃ r v, t.mm = (setMm s r v).mm ∧ t.mmt1 = (setMm s r v).mmt1
  flags : t.flags = s.flags ∨
    ∃ ext v, statusField i = some ext ∧ t.flags = writeFlags s.flags (selected s.params.extGroups ext) v
  br : t.br = s.br ∨ writesBr i = true
  sr : (t.sr = s.sr ∧ t.np = s.np) ∨ writesSr i = true ∧
    ∃ r v, t.sr = s.sr.set r (srWritten s r v) ∧ t.np = npAfter s r (srWritten s r v)
  mem : t.mem = s.mem ∨ isStore i = true ∧ ∃ ps v, t.mem = storeBytes s.mem ps v
  locks : t.locks = s.locks ∨ isLocked i = true ∧ ∃ e, t.locks = s.locks ++ [e]

/-- An Op that only went on. -/
theorem Effect.none {i : Instr} {s : State} : Effect i s s.advance :=
  ⟨rfl, ⟨rfl, rfl, rfl, rfl, rfl, rfl, rfl, rfl⟩, .inl rfl, .inl ⟨rfl, rfl⟩, .inl rfl, .inl rfl, .inl ⟨rfl, rfl⟩,
    .inl rfl, .inl rfl⟩

/-- An Op that wrote its destination register, in a state that drew a free value or not. -/
theorem Effect.write {i : Instr} {s s1 : State} (h1 : s1 = s ∨ s1 = s.drew) {n : RegNum} {sz : Size}
    (v : BitVec sz.bits) (h : destOf i s.env = some (n, sz)) : Effect i s (wr s1 n sz v).advance := by
  rcases h1 with rfl | rfl
  · exact ⟨by simp, ⟨by simp, by simp, by simp, by simp, by simp, by simp, by simp, by simp⟩,
      .inr ⟨n, sz, v, h, by simp⟩, .inl ⟨by simp, by simp⟩, .inl (by simp), .inl (by simp), .inl (by simp),
      .inl (by simp), .inl (by simp)⟩
  · exact ⟨by simp, ⟨by simp, by simp, by simp, by simp, by simp, by simp, by simp, by simp⟩,
      .inr ⟨n, sz, v, h, (by rw [State.advance_regs]; exact wr_regs_congr (by simp) (by simp) _ _ _)⟩, .inl ⟨by simp, by simp⟩, .inl (by simp),
      .inl (by simp), .inl (by simp), .inl (by simp), .inl (by simp)⟩

/-- An Op that wrote flags, over a state that wrote the destination register, drew a free value, or neither. -/
theorem Effect.status {i : Instr} {s s1 : State} {st : Option Ext4} (v : FlagValues)
    (h : Effect i s s1.advance) (hf : s1.flags = s.flags) (hp : s1.params = s.params) (hs : statusField i = st) :
    Effect i s (applyStatus s1 st v).advance := by
  obtain ⟨h1, ⟨a, b, c, d, e, f, g, k⟩, h2, h3, -, h5, h6, h7, h8⟩ := h
  refine ⟨by simpa using h1, ⟨by simpa using a, by simpa using b, by simpa using c, by simpa using d, by simpa using e,
    by simpa using f, by simpa using g, by simpa using k⟩, ?_, by simpa using h3, ?_, by simpa using h5,
    by simpa using h6, by simpa using h7, by simpa using h8⟩
  · have hr : (applyStatus s1 st v).regs = s1.regs := by cases st <;> rfl
    simpa [hr] using h2
  · cases st with
    | none => exact .inl (by simpa using hf)
    | some ext => exact .inr ⟨ext, v, hs, by simp [hf, hp]⟩

/-- An Op under `regop_fn`. -/
theorem Effect.regopFn {i : Instr} {o : RegOperands} {s t : State} (h : regopFnOp o s = .ok t)
    (hd : destOf i s.env = some (o.dest, regSize s.env o.dsz)) : Effect i s t := by
  obtain ⟨-, rfl⟩ := regopFnOp_ok.mp h
  exact Effect.write (.inr rfl) _ hd

/-- An adding or subtracting RegOp. -/
theorem Effect.arith {i : Instr} {f : {w : Nat} → BitVec w → BitVec w → Alu w} {t0 : Bool} {st : Option Ext4}
    {o : RegOperands} {s t : State} (h : arithOp f true t0 st o s = .ok t)
    (hd : destOf i s.env = some (o.dest, regSize s.env o.dsz)) (hs : statusField i = st) : Effect i s t := by
  obtain ⟨-, rfl⟩ := arithOp_ok.mp h
  exact Effect.status _ (Effect.write (.inl rfl) _ hd) (by simp) (by simp) hs

/-- A logic RegOp. -/
theorem Effect.logic {i : Instr} {f : {w : Nat} → BitVec w → BitVec w → BitVec w} {t0 : Bool} {st : Option Ext4}
    {o : RegOperands} {s t : State} (h : logicOp f t0 st o s = .ok t)
    (hd : destOf i s.env = some (o.dest, regSize s.env o.dsz)) (hs : statusField i = st) : Effect i s t := by
  obtain ⟨-, rfl⟩ := logicOp_ok.mp h
  have hw := Effect.write (i := i) (s := s) (.inl rfl)
    (f (rd s o.src1 (regSize s.env o.dsz)) (src2Value s (regSize s.env o.dsz) o.src2)) hd
  refine Effect.status _ ?_ (by split <;> simp) (by split <;> simp) hs
  split
  · obtain ⟨h1, ⟨a, b, c, d, e, f, g, k⟩, h2, h3, h4, h5, h6, h7, h8⟩ := hw
    exact ⟨h1, ⟨a, b, c, d, e, f, g, k⟩, h2, h3, h4, h5, h6, h7, h8⟩
  · exact hw

/-- An integer load. -/
theorem Effect.load {i : Instr} {kind : AccessKind} {locked : Bool} {a : Address} {sz : IntSize} {d : RegNum}
    {s t : State} (h : loadInt kind locked a sz d s = .ok t) (hd : destOf i s.env = some (d, intSize s.env sz))
    (hl : locked = true → isLocked i = true) : Effect i s t := by
  obtain ⟨v, -, rfl⟩ := loadInt_ok.mp h
  cases locked with
  | false => exact Effect.write (.inl rfl) _ hd
  | true =>
    exact ⟨by simp, ⟨by simp, by simp, by simp, by simp, by simp, by simp, by simp, by simp⟩,
      .inr ⟨d, intSize s.env sz, _, hd, by
        rw [State.advance_regs, if_pos rfl]
        exact wr_regs_congr (by simp) (by simp) _ _ _⟩,
      .inl ⟨by simp, by simp⟩, .inl (by simp), .inl (by simp), .inl (by simp), .inl (by simp),
      .inr ⟨hl rfl, _, by simp; rfl⟩⟩

/-- An MMX load. -/
theorem Effect.loadMm {i : Instr} {kind : AccessKind} {locked : Bool} {a : Address} {sz : FpSize} {d : RegNum}
    {s t : State} (h : Machine.loadMm kind locked a sz d s = .ok t) (hm : writesMm i = true)
    (hl : locked = true → isLocked i = true) : Effect i s t := by
  obtain ⟨r, v, -, -, -, rfl⟩ := loadMm_ok.mp h
  cases locked with
  | false =>
    exact ⟨by simp, ⟨by simp, by simp, by simp, by simp, by simp, by simp, by simp, by simp⟩, .inl (by simp),
      .inr ⟨hm, r, v, rfl, rfl⟩, .inl (by simp), .inl (by simp), .inl (by simp), .inl (by simp), .inl (by simp)⟩
  | true =>
    exact ⟨by simp, ⟨by simp, by simp, by simp, by simp, by simp, by simp, by simp, by simp⟩, .inl (by simp),
      .inr ⟨hm, r, v, by cases r <;> rfl, by cases r <;> rfl⟩, .inl (by simp), .inl (by simp), .inl (by simp),
      .inl (by simp), .inr ⟨hl rfl, _, by simp; rfl⟩⟩

/-- A store, without and with a write of the base register. -/
theorem Effect.store {i : Instr} {s s1 : State} {seg : Seg} {ea : Word} {n : Nat} {v : DWord}
    (h : memWrite s seg ea n v = .ok s1) (hi : isStore i = true) : Effect i s s1.advance := by
  obtain ⟨cs, -, rfl⟩ := memWrite_ok h
  exact ⟨rfl, ⟨rfl, rfl, rfl, rfl, rfl, rfl, rfl, rfl⟩, .inl rfl, .inl ⟨rfl, rfl⟩, .inl rfl, .inl rfl, .inl ⟨rfl, rfl⟩,
    .inr ⟨hi, _, v, rfl⟩, .inl rfl⟩

theorem Effect.storeUpdate {i : Instr} {s s1 : State} {seg : Seg} {ea : Word} {n : Nat} {v : DWord}
    (h : memWrite s seg ea n v = .ok s1) (hi : isStore i = true) {d : RegNum} {z : Size} (b : BitVec z.bits)
    (hd : destOf i s.env = some (d, z)) : Effect i s (wr s1 d z b).advance := by
  obtain ⟨cs, -, rfl⟩ := memWrite_ok h
  exact ⟨by simp, ⟨by simp, by simp, by simp, by simp, by simp, by simp, by simp, by simp⟩,
    .inr ⟨d, z, b, hd, by rw [State.advance_regs]; exact wr_regs_congr (by simp) (by simp) _ _ _⟩,
    .inl ⟨by simp, by simp⟩, .inl (by simp), .inl (by simp), .inl (by simp), .inr ⟨hi, _, v, by simp; rfl⟩, .inl (by simp)⟩

/-- What every Op that has a next state did. -/
theorem exec_effect {i : Instr} {s t : State} (h : exec i s = .next t) : Effect i s t := by
  cases i <;> simp only [exec] at h
  case ld | ldst | ldstl => exact Effect.load (finish_next.mp h) rfl (by simp [isLocked])
  case ldm | ldmstl => exact Effect.loadMm (finish_next.mp h) rfl (by simp [isLocked])
  case ldpf | tia =>
    cases h
    exact Effect.none
  case lea =>
    cases h
    exact Effect.write (.inl rfl) _ rfl
  case cda =>
    obtain ⟨-, rfl⟩ := checkAddress_ok.mp (finish_next.mp h)
    exact Effect.none
  case cdaf =>
    unfold execCdaf at h
    split at h
    · cases h
    · obtain ⟨-, rfl⟩ := checkAddress_ok.mp (finish_next.mp h)
      exact Effect.none
  case cia =>
    obtain ⟨-, -, h⟩ := res_bind_ok.mp (finish_next.mp h)
    cases h
    exact Effect.none
  case st =>
    obtain ⟨s1, h1, h⟩ := res_bind_ok.mp (finish_next.mp h)
    cases h
    exact Effect.store h1 rfl
  case stupd =>
    obtain ⟨s1, h1, h⟩ := res_bind_ok.mp (finish_next.mp h)
    cases h
    exact Effect.storeUpdate h1 rfl _ rfl
  case stm =>
    obtain ⟨p, -, h⟩ := res_bind_ok.mp (finish_next.mp h)
    obtain ⟨s1, h1, h⟩ := res_bind_ok.mp h
    cases h
    exact Effect.store h1 rfl
  case add | adc | sub | sbb | inc | dec => exact Effect.arith (finish_next.mp h) rfl rfl
  case or | and | xor => exact Effect.logic (finish_next.mp h) rfl rfl
  case mov =>
    obtain ⟨-, -, h⟩ := res_bind_ok.mp (finish_next.mp h)
    exact Effect.logic h rfl rfl
  case cmp =>
    obtain ⟨-, rfl⟩ := arithOp_ok.mp (finish_next.mp h)
    exact Effect.status _ Effect.none rfl rfl rfl
  case sll | srl | sra =>
    obtain ⟨-, rfl⟩ := shiftOp_ok.mp (finish_next.mp h)
    exact Effect.write (.inl rfl) _ rfl
  case slc | rlc | src | rrc | sld | rld =>
    obtain ⟨-, -, h⟩ := freeShiftOp_ok.mp (finish_next.mp h)
    exact Effect.regopFn h rfl
  case sla =>
    obtain ⟨-, -, h⟩ := res_bind_ok.mp (finish_next.mp h)
    exact Effect.regopFn h rfl
  case rls | rrs =>
    obtain ⟨-, -, h⟩ := freeByteShiftOp_ok.mp (finish_next.mp h)
    exact Effect.regopFn h rfl
  case zext8 | sext8 | zext16 | sext16 =>
    obtain ⟨-, -, rfl⟩ := extendOp_ok.mp (finish_next.mp h)
    exact Effect.write (.inl rfl) _ rfl
  case rdflgs | mul1s | mul1u | muleh | mulel | div1 | div2 | diver | diveq | rdflg | rdseg =>
    obtain ⟨-, h⟩ := freeOp_ok.mp (finish_next.mp h)
    exact Effect.regopFn h rfl
  case daa | das =>
    obtain ⟨-, -, -, h⟩ := freeByteOp_ok.mp (finish_next.mp h)
    exact Effect.regopFn h rfl
  case movcc =>
    obtain ⟨-, -, b, -, rfl⟩ := movccOp_ok.mp (finish_next.mp h)
    cases b with
    | true => exact Effect.write (.inl rfl) _ rfl
    | false => exact Effect.none
  case rdxxx =>
    obtain ⟨r, -, rfl⟩ := rdxxxOp_ok.mp (finish_next.mp h)
    exact Effect.write (.inr rfl) _ rfl
  case wrxxx =>
    obtain ⟨r, -, -, -, -, rfl⟩ := wrxxxOp_ok.mp (finish_next.mp h)
    exact ⟨rfl, ⟨rfl, rfl, rfl, rfl, rfl, rfl, rfl, rfl⟩, .inl rfl, .inl ⟨rfl, rfl⟩, .inl rfl, .inl rfl,
      .inr ⟨rfl, r, _, rfl, rfl⟩, .inl rfl, .inl rfl⟩
  case bswap =>
    obtain ⟨-, -, -, rfl⟩ := bswapOp_ok.mp (finish_next.mp h)
    exact Effect.write (.inl rfl) _ rfl
  case brcond =>
    obtain ⟨b, -, h⟩ := res_bind_ok.mp (finish_next.mp h)
    cases h
    exact ⟨rfl, ⟨rfl, rfl, rfl, rfl, rfl, rfl, rfl, rfl⟩, .inl rfl, .inl ⟨rfl, rfl⟩, .inl rfl, .inr rfl,
      .inl ⟨rfl, rfl⟩, .inl rfl, .inl rfl⟩
  case ldk =>
    obtain ⟨-, -, h⟩ := res_bind_ok.mp (finish_next.mp h)
    cases h
    exact Effect.write (.inl rfl) _ rfl
  case limm =>
    cases h
    exact Effect.write (.inl rfl) _ rfl
  all_goals cases h

end Sys2Proof.Machine
end

