-- ==== Sys2Proof/Laws/Encoding.lean ====
section
/-! SUPPORT. The fields of the words the encoder writes, and decoding of each field code: what a round trip through an
encoding is made of. -/

namespace Sys2Proof

/-- A field above the low part of a concatenation. -/
theorem field_hi {m n : Nat} (x : BitVec m) (y : BitVec n) {lo k : Nat} (h : n ≤ lo) :
    (x ++ y).extractLsb' lo k = x.extractLsb' (lo - n) k :=
  BitVec.extractLsb'_append_eq_of_le h

/-- A field within the low part of a concatenation. -/
theorem field_lo {m n : Nat} (x : BitVec m) (y : BitVec n) {lo k : Nat} (h : lo + k ≤ n) :
    (x ++ y).extractLsb' lo k = y.extractLsb' lo k :=
  BitVec.extractLsb'_append_eq_of_add_le h

/-- The field that is the whole. -/
theorem field_self {n : Nat} (x : BitVec n) : x.extractLsb' 0 n = x :=
  BitVec.extractLsb'_eq_self

/-- One bit of a word as a field. -/
theorem getLsbD_field (w : OpWord) (i : Nat) : w.getLsbD i = (opField w i 1).getLsbD 0 := by
  simp [opField]

/-! ### The fields of the four formats -/

theorem ldSt_format (ty : BitVec 4) (a : Address) (z : BitVec 2) (d : RegNum) : opField (ldStWord ty a z d) 36 2 = 0b01#2 := by
  unfold opField ldStWord
  rw [field_hi _ _ (by decide), field_hi _ _ (by decide), field_hi _ _ (by decide), field_hi _ _ (by decide), field_hi _ _ (by decide), field_hi _ _ (by decide), field_hi _ _ (by decide), field_hi _ _ (by decide), field_hi _ _ (by decide), field_hi _ _ (by decide)]
  exact field_self _

theorem ldSt_type (ty : BitVec 4) (a : Address) (z : BitVec 2) (d : RegNum) : opField (ldStWord ty a z d) 32 4 = ty := by
  unfold opField ldStWord
  rw [field_hi _ _ (by decide), field_hi _ _ (by decide), field_hi _ _ (by decide), field_hi _ _ (by decide), field_hi _ _ (by decide), field_hi _ _ (by decide), field_hi _ _ (by decide), field_hi _ _ (by decide), field_hi _ _ (by decide), field_lo _ _ (by decide)]
  exact field_self _

theorem ldSt_isf (ty : BitVec 4) (a : Address) (z : BitVec 2) (d : RegNum) : opField (ldStWord ty a z d) 30 2 = a.isf.code := by
  unfold opField ldStWord
  rw [field_hi _ _ (by decide), field_hi _ _ (by decide), field_hi _ _ (by decide), field_hi _ _ (by decide), field_hi _ _ (by decide), field_hi _ _ (by decide), field_hi _ _ (by decide), field_hi _ _ (by decide), field_lo _ _ (by decide)]
  exact field_self _

theorem ldSt_seg (ty : BitVec 4) (a : Address) (z : BitVec 2) (d : RegNum) : opField (ldStWord ty a z d) 26 4 = a.seg.code := by
  unfold opField ldStWord
  rw [field_hi _ _ (by decide), field_hi _ _ (by decide), field_hi _ _ (by decide), field_hi _ _ (by decide), field_hi _ _ (by decide), field_hi _ _ (by decide), field_hi _ _ (by decide), field_lo _ _ (by decide)]
  exact field_self _

theorem ldSt_asz (ty : BitVec 4) (a : Address) (z : BitVec 2) (d : RegNum) : opField (ldStWord ty a z d) 24 2 = a.asz.code := by
  unfold opField ldStWord
  rw [field_hi _ _ (by decide), field_hi _ _ (by decide), field_hi _ _ (by decide), field_hi _ _ (by decide), field_hi _ _ (by decide), field_hi _ _ (by decide), field_lo _ _ (by decide)]
  exact field_self _

theorem ldSt_dsz (ty : BitVec 4) (a : Address) (z : BitVec 2) (d : RegNum) : opField (ldStWord ty a z d) 22 2 = z := by
  unfold opField ldStWord
  rw [field_hi _ _ (by decide), field_hi _ _ (by decide), field_hi _ _ (by decide), field_hi _ _ (by decide), field_hi _ _ (by decide), field_lo _ _ (by decide)]
  exact field_self _

theorem ldSt_data (ty : BitVec 4) (a : Address) (z : BitVec 2) (d : RegNum) : opField (ldStWord ty a z d) 17 5 = d := by
  unfold opField ldStWord
  rw [field_hi _ _ (by decide), field_hi _ _ (by decide), field_hi _ _ (by decide), field_hi _ _ (by decide), field_lo _ _ (by decide)]
  exact field_self _

theorem ldSt_ld (ty : BitVec 4) (a : Address) (z : BitVec 2) (d : RegNum) : opField (ldStWord ty a z d) 16 1 = a.disp.code.1 := by
  unfold opField ldStWord
  rw [field_hi _ _ (by decide), field_hi _ _ (by decide), field_hi _ _ (by decide), field_lo _ _ (by decide)]
  exact field_self _

theorem ldSt_base (ty : BitVec 4) (a : Address) (z : BitVec 2) (d : RegNum) : opField (ldStWord ty a z d) 12 4 = a.base := by
  unfold opField ldStWord
  rw [field_hi _ _ (by decide), field_hi _ _ (by decide), field_lo _ _ (by decide)]
  exact field_self _

theorem ldSt_disp8 (ty : BitVec 4) (a : Address) (z : BitVec 2) (d : RegNum) : opField (ldStWord ty a z d) 4 8 = a.disp.code.2 := by
  unfold opField ldStWord
  rw [field_hi _ _ (by decide), field_lo _ _ (by decide)]
  exact field_self _

theorem ldSt_index (ty : BitVec 4) (a : Address) (z : BitVec 2) (d : RegNum) : opField (ldStWord ty a z d) 0 4 = a.index := by
  unfold opField ldStWord
  rw [field_lo _ _ (by decide)]
  exact field_self _

theorem reg_format (row : BitVec 5) (t0 : Bool) (ext : Ext4) (ss : Bool) (o : RegOperands) : opField (regWord row t0 ext ss o) 36 2 = 0b00#2 := by
  unfold opField regWord
  rw [field_hi _ _ (by decide), field_hi _ _ (by decide), field_hi _ _ (by decide), field_hi _ _ (by decide), field_hi _ _ (by decide), field_hi _ _ (by decide), field_hi _ _ (by decide), field_hi _ _ (by decide), field_hi _ _ (by decide), field_hi _ _ (by decide), field_hi _ _ (by decide)]
  exact field_self _

theorem reg_row (row : BitVec 5) (t0 : Bool) (ext : Ext4) (ss : Bool) (o : RegOperands) : opField (regWord row t0 ext ss o) 31 5 = row := by
  unfold opField regWord
  rw [field_hi _ _ (by decide), field_hi _ _ (by decide), field_hi _ _ (by decide), field_hi _ _ (by decide), field_hi _ _ (by decide), field_hi _ _ (by decide), field_hi _ _ (by decide), field_hi _ _ (by decide), field_hi _ _ (by decide), field_hi _ _ (by decide), field_lo _ _ (by decide)]
  exact field_self _

theorem reg_type0 (row : BitVec 5) (t0 : Bool) (ext : Ext4) (ss : Bool) (o : RegOperands) : opField (regWord row t0 ext ss o) 30 1 = BitVec.ofBool t0 := by
  unfold opField regWord
  rw [field_hi _ _ (by decide), field_hi _ _ (by decide), field_hi _ _ (by decide), field_hi _ _ (by decide), field_hi _ _ (by decide), field_hi _ _ (by decide), field_hi _ _ (by decide), field_hi _ _ (by decide), field_hi _ _ (by decide), field_lo _ _ (by decide)]
  exact field_self _

theorem reg_ext (row : BitVec 5) (t0 : Bool) (ext : Ext4) (ss : Bool) (o : RegOperands) : opField (regWord row t0 ext ss o) 26 4 = ext := by
  unfold opField regWord
  rw [field_hi _ _ (by decide), field_hi _ _ (by decide), field_hi _ _ (by decide), field_hi _ _ (by decide), field_hi _ _ (by decide), field_hi _ _ (by decide), field_hi _ _ (by decide), field_hi _ _ (by decide), field_lo _ _ (by decide)]
  exact field_self _

theorem reg_rx (row : BitVec 5) (t0 : Bool) (ext : Ext4) (ss : Bool) (o : RegOperands) : opField (regWord row t0 ext ss o) 25 1 = BitVec.ofBool o.rx := by
  unfold opField regWord
  rw [field_hi _ _ (by decide), field_hi _ _ (by decide), field_hi _ _ (by decide), field_hi _ _ (by decide), field_hi _ _ (by decide), field_hi _ _ (by decide), field_hi _ _ (by decide), field_lo _ _ (by decide)]
  exact field_self _

theorem reg_dsz (row : BitVec 5) (t0 : Bool) (ext : Ext4) (ss : Bool) (o : RegOperands) : opField (regWord row t0 ext ss o) 22 3 = o.dsz.code := by
  unfold opField regWord
  rw [field_hi _ _ (by decide), field_hi _ _ (by decide), field_hi _ _ (by decide), field_hi _ _ (by decide), field_hi _ _ (by decide), field_hi _ _ (by decide), field_lo _ _ (by decide)]
  exact field_self _

theorem reg_dest (row : BitVec 5) (t0 : Bool) (ext : Ext4) (ss : Bool) (o : RegOperands) : opField (regWord row t0 ext ss o) 17 5 = o.dest := by
  unfold opField regWord
  rw [field_hi _ _ (by decide), field_hi _ _ (by decide), field_hi _ _ (by decide), field_hi _ _ (by decide), field_hi _ _ (by decide), field_lo _ _ (by decide)]
  exact field_self _

theorem reg_src1 (row : BitVec 5) (t0 : Bool) (ext : Ext4) (ss : Bool) (o : RegOperands) : opField (regWord row t0 ext ss o) 12 5 = o.src1 := by
  unfold opField regWord
  rw [field_hi _ _ (by decide), field_hi _ _ (by decide), field_hi _ _ (by decide), field_hi _ _ (by decide), field_lo _ _ (by decide)]
  exact field_self _

theorem reg_ss (row : BitVec 5) (t0 : Bool) (ext : Ext4) (ss : Bool) (o : RegOperands) : opField (regWord row t0 ext ss o) 9 1 = BitVec.ofBool ss := by
  unfold opField regWord
  rw [field_hi _ _ (by decide), field_hi _ _ (by decide), field_lo _ _ (by decide)]
  exact field_self _

theorem reg_imm (row : BitVec 5) (t0 : Bool) (ext : Ext4) (ss : Bool) (o : RegOperands) : opField (regWord row t0 ext ss o) 8 1 = o.src2.code.1 := by
  unfold opField regWord
  rw [field_hi _ _ (by decide), field_lo _ _ (by decide)]
  exact field_self _

theorem reg_src2 (row : BitVec 5) (t0 : Bool) (ext : Ext4) (ss : Bool) (o : RegOperands) : opField (regWord row t0 ext ss o) 0 8 = o.src2.code.2 := by
  unfold opField regWord
  rw [field_lo _ _ (by decide)]
  exact field_self _

theorem spec_format (ty : BitVec 4) (o : SpecOperands) : opField (specWord ty o) 35 3 = 0b101#3 := by
  unfold opField specWord
  rw [field_hi _ _ (by decide), field_hi _ _ (by decide), field_hi _ _ (by decide), field_hi _ _ (by decide), field_hi _ _ (by decide), field_hi _ _ (by decide)]
  exact field_self _

theorem spec_type (ty : BitVec 4) (o : SpecOperands) : opField (specWord ty o) 31 4 = ty := by
  unfold opField specWord
  rw [field_hi _ _ (by decide), field_hi _ _ (by decide), field_hi _ _ (by decide), field_hi _ _ (by decide), field_hi _ _ (by decide), field_lo _ _ (by decide)]
  exact field_self _

theorem spec_cc (ty : BitVec 4) (o : SpecOperands) : opField (specWord ty o) 26 5 = o.cc := by
  unfold opField specWord
  rw [field_hi _ _ (by decide), field_hi _ _ (by decide), field_hi _ _ (by decide), field_hi _ _ (by decide), field_lo _ _ (by decide)]
  exact field_self _

theorem spec_dsz (ty : BitVec 4) (o : SpecOperands) : opField (specWord ty o) 22 2 = o.dsz.code := by
  unfold opField specWord
  rw [field_hi _ _ (by decide), field_hi _ _ (by decide), field_lo _ _ (by decide)]
  exact field_self _

theorem spec_dest (ty : BitVec 4) (o : SpecOperands) : opField (specWord ty o) 17 5 = o.dest := by
  unfold opField specWord
  rw [field_hi _ _ (by decide), field_lo _ _ (by decide)]
  exact field_self _

theorem spec_imm17 (ty : BitVec 4) (o : SpecOperands) : opField (specWord ty o) 0 17 = o.imm17 := by
  unfold opField specWord
  rw [field_lo _ _ (by decide)]
  exact field_self _

theorem limm_format (d : BitVec 4) (v : Word) : opField (limmWord d v) 36 2 = 0b11#2 := by
  unfold opField limmWord
  rw [field_hi _ _ (by decide), field_hi _ _ (by decide), field_hi _ _ (by decide)]
  exact field_self _

theorem limm_hi (d : BitVec 4) (v : Word) : opField (limmWord d v) 21 15 = v.extractLsb' 17 15 := by
  unfold opField limmWord
  rw [field_hi _ _ (by decide), field_hi _ _ (by decide), field_lo _ _ (by decide)]
  exact field_self _

theorem limm_dest (d : BitVec 4) (v : Word) : opField (limmWord d v) 17 4 = d := by
  unfold opField limmWord
  rw [field_hi _ _ (by decide), field_lo _ _ (by decide)]
  exact field_self _

theorem limm_lo (d : BitVec 4) (v : Word) : opField (limmWord d v) 0 17 = v.extractLsb' 0 17 := by
  unfold opField limmWord
  rw [field_lo _ _ (by decide)]
  exact field_self _


/-! ### Field codes -/

@[simp] theorem scaleOf_code (x : Scale) : scaleOf x.code = x := by
  cases x <;> rfl

@[simp] theorem segCodeOf_code (x : SegCode) : segCodeOf x.code = some x := by
  cases x with
  | os low => revert low; decide
  | _ => rfl

@[simp] theorem addrSizeOf_code (x : AddrSize) : addrSizeOf x.code = x := by
  cases x <;> rfl

@[simp] theorem intSizeOf_code (x : IntSize) : intSizeOf x.code = x := by
  cases x <;> rfl

@[simp] theorem fpSizeOf_code (x : FpSize) : fpSizeOf x.code = x := by
  cases x <;> rfl

@[simp] theorem regSizeOf_code (x : RegSize) : regSizeOf x.code = some x := by
  cases x <;> rfl

/-! ### Decoding a word of each format -/

@[simp] theorem dispOf_ldStWord (ty : BitVec 4) (a : Address) (z : BitVec 2) (d : RegNum) :
    dispOf (ldStWord ty a z d) = a.disp := by
  unfold dispOf
  rw [getLsbD_field, ldSt_ld, ldSt_disp8]
  cases a.disp with
  | disp8 v => exact if_neg (show ¬(0#1).getLsbD 0 = true by decide)
  | env32 => exact if_pos (show (1#1).getLsbD 0 = true by decide)

@[simp] theorem addressOf_ldStWord (ty : BitVec 4) (a : Address) (z : BitVec 2) (d : RegNum) :
    addressOf (ldStWord ty a z d) a.seg = a := by
  unfold addressOf
  rw [ldSt_isf, ldSt_asz, ldSt_base, ldSt_index, dispOf_ldStWord, scaleOf_code, addrSizeOf_code]

/-- A word of the LdStOp format that meets its row's condition gives the Op of its Type with the fields it was written
with. -/
theorem decodeFields_ldStWord (ty : BitVec 4) (a : Address) (z : BitVec 2) (d : RegNum)
    (h : ¬(needsDsz ty = true ∧ z = 0b00#2)) :
    decodeFields (ldStWord ty a z d) = .ok (ldStOf ty.toNat a z d) := by
  unfold decodeFields
  rw [ldSt_format]
  show decodeLdSt (ldStWord ty a z d) = _
  unfold decodeLdSt
  rw [ldSt_type, ldSt_dsz, if_neg h, ldSt_seg, segCodeOf_code]
  simp only [addressOf_ldStWord, ldSt_data]

theorem src2Of_regWord (row : BitVec 5) (t0 : Bool) (ext : Ext4) (ss : Bool) (o : RegOperands) :
    src2Of (regWord row t0 ext ss o) = o.src2 := by
  have h8 := reg_imm row t0 ext ss o
  have h := reg_src2 row t0 ext ss o
  have h5 : opField (regWord row t0 ext ss o) 0 5 = o.src2.code.2.extractLsb' 0 5 := by
    rw [← h]
    simp only [opField]
    ext i hi
    simp
  unfold src2Of
  rw [getLsbD_field, h8, h, h5]
  cases o.src2 with
  | reg n =>
    rw [if_neg (show ¬(Src2.code (.reg n)).1.getLsbD 0 = true from (by decide : ¬(0#1).getLsbD 0 = true))]
    exact congrArg Src2.reg ((field_lo 0#3 n (by decide)).trans (field_self n))
  | imm v => exact if_pos (show (1#1).getLsbD 0 = true by decide)

theorem regOperandsOf_regWord (row : BitVec 5) (t0 : Bool) (ext : Ext4) (ss : Bool) (o : RegOperands) :
    regOperandsOf (regWord row t0 ext ss o) o.dsz = o := by
  unfold regOperandsOf
  rw [getLsbD_field, reg_rx, reg_dest, reg_src1, src2Of_regWord]
  cases o with
  | mk rx dsz dest src1 src2 => simp

/-- A word of the RegOp format whose row is assigned gives the Op of its row with the fields it was written with. -/
theorem decodeFields_regWord (row : BitVec 5) (t0 : Bool) (ext : Ext4) (ss : Bool) (o : RegOperands)
    (hrow : row ≠ 0b11011#5) :
    decodeFields (regWord row t0 ext ss o) = .ok (regOpOf row.toNat t0 ss ext o) := by
  unfold decodeFields
  rw [reg_format]
  show decodeRegOp (regWord row t0 ext ss o) = _
  unfold decodeRegOp
  rw [reg_row, if_neg hrow, reg_dsz, regSizeOf_code]
  have ht : (regWord row t0 ext ss o).getLsbD 30 = t0 := by
    rw [getLsbD_field, reg_type0]; simp
  have hs : (regWord row t0 ext ss o).getLsbD 9 = ss := by
    rw [getLsbD_field, reg_ss]; simp
  simp only [ht, hs, reg_ext, regOperandsOf_regWord]

theorem specOperandsOf_specWord (ty : BitVec 4) (o : SpecOperands) : specOperandsOf (specWord ty o) = o := by
  unfold specOperandsOf
  rw [spec_cc, spec_dsz, spec_dest, spec_imm17, intSizeOf_code]

/-- Two bits of the format of a SpecOp, and the third. -/
theorem spec_top (ty : BitVec 4) (o : SpecOperands) :
    opField (specWord ty o) 36 2 = 0b10#2 ∧ (specWord ty o).getLsbD 35 = true := by
  have h := spec_format ty o
  have hb : ∀ i, i < 3 → (specWord ty o).getLsbD (35 + i) = (0b101#3).getLsbD i := by
    intro i hi
    rw [← h]
    simp [opField, hi]
  refine ⟨?_, hb 0 (by decide)⟩
  apply BitVec.eq_of_getLsbD_eq
  intro i hi
  have := hb (i + 1) (by omega)
  simp only [opField, BitVec.getLsbD_extractLsb', hi, decide_true, Bool.true_and]
  rw [show 36 + i = 35 + (i + 1) by omega, this]
  match i, hi with
  | 0, _ => rfl
  | 1, _ => rfl

/-- A word of the SpecOp format gives the Op of its Type with the fields it was written with. -/
theorem decodeFields_specWord (ty : BitVec 4) (o : SpecOperands) :
    decodeFields (specWord ty o) = .ok (specOpOf ty o) := by
  unfold decodeFields
  rw [(spec_top ty o).1, spec_type, specOperandsOf_specWord]
  show (if (specWord ty o).getLsbD 35 then _ else _) = _
  rw [if_pos (spec_top ty o).2]

/-- A word of the LIMMOp format gives LIMM with the register and the immediate it was written with. -/
theorem decodeFields_limmWord (d : BitVec 4) (v : Word) : decodeFields (limmWord d v) = .ok (.limm d v) := by
  unfold decodeFields
  rw [limm_format, limm_dest, limm_hi, limm_lo]
  show Except.ok (Instr.limm d _) = _
  refine congrArg (fun x => Except.ok (Instr.limm d x)) ?_
  apply BitVec.eq_of_getLsbD_eq
  intro i hi
  rw [BitVec.getLsbD_append, BitVec.getLsbD_extractLsb', BitVec.getLsbD_extractLsb']
  by_cases h : i < 17
  · simp [h]
  · simp only [h, decide_false, if_false]
    rw [show decide (i - 17 < 15) = true by simp; omega, Bool.true_and]
    congr 1
    omega

end Sys2Proof
end

