-- ==== Sys2Proof/Laws/Frames.lean ====
section
/-! SUPPORT. How the frame predicates of Safety.lean are met: from the fields of two states. -/

namespace Sys2Proof.Machine

/-- An operand has a bit. -/
theorem Size.bits_pos (z : Size) : 0 < z.bits := by
  cases z <;> decide

/-- Only the 1-byte code gives the 1-byte size: the environment sizes are 2 and 4 bytes. -/
theorem regSize_ne_one (e : Env) (sz : RegSize) (h : sz ≠ .one) : regSize e sz ≠ .one := by
  rcases e with ⟨a, b, c⟩
  cases sz <;> cases a <;> cases b <;> cases c <;> first | exact absurd rfl h | (intro q; cases q)

/-- `SameLaunch` from equal fields. -/
theorem sameLaunch_of {s t : State} (h : t.segs = s.segs ∧ t.eip = s.eip ∧ t.eflagsVM = s.eflagsVM ∧
    t.cr0PE = s.cr0PE ∧ t.hidden = s.hidden ∧ t.program = s.program ∧ t.env = s.env ∧ t.params = s.params) :
    SameLaunch s t :=
  ⟨h.1, h.2.1, h.2.2.1, h.2.2.2.1, h.2.2.2.2.1, h.2.2.2.2.2.1, h.2.2.2.2.2.2.1, h.2.2.2.2.2.2.2⟩

/-- `ChangesOnly` from equal fields, each of a part that is not named. -/
theorem changesOnly_of {parts : List Part} {s t : State} (pc : t.pc = s.pc + 1) (launch : SameLaunch s t)
    (regs : Part.regs ∉ parts → t.regs = s.regs)
    (mmx : Part.mmx ∉ parts → t.mm = s.mm ∧ t.mmt1 = s.mmt1)
    (flags : Part.flags ∉ parts → t.flags = s.flags) (br : Part.br ∉ parts → t.br = s.br)
    (sr : Part.sr ∉ parts → t.sr = s.sr) (np : Part.np ∉ parts → t.np = s.np)
    (mem : Part.mem ∉ parts → t.mem = s.mem)
    (locks : Part.locks ∉ parts → t.locks = s.locks) (draws : Part.draws ∉ parts → t.draws = s.draws) :
    ChangesOnly parts s t :=
  { pc := pc
    regs := fun h k => getSlot_congr (regs h) k
    mmx := fun h r => getMm_congr (mmx h).1 (mmx h).2 r
    flags := flags
    br := br
    sr := sr
    np := np
    mem := fun h a => by rw [mem h]
    locks := locks
    draws := draws
    launch := launch }

/-- `ChangesOnly` from what the Op did to each part. -/
theorem Effect.changesOnly {i : Instr} {s t : State} (h : Effect i s t) {parts : List Part}
    (regs : destOf i s.env = Option.none ∨ Part.regs ∈ parts) (mmx : writesMm i = false ∨ Part.mmx ∈ parts)
    (flags : statusField i = Option.none ∨ Part.flags ∈ parts) (br : writesBr i = false ∨ Part.br ∈ parts)
    (sr : writesSr i = false ∨ Part.sr ∈ parts ∧ Part.np ∈ parts) (mem : isStore i = false ∨ Part.mem ∈ parts)
    (locks : isLocked i = false ∨ Part.locks ∈ parts) (draws : t.draws = s.draws ∨ Part.draws ∈ parts) :
    ChangesOnly parts s t := by
  refine changesOnly_of h.pc h.launch (fun n => ?_) (fun n => ?_) (fun n => ?_) (fun n => ?_) (fun n => ?_)
    (fun n => ?_) (fun n => ?_) (fun n => ?_) (fun n => draws.resolve_right n)
  · exact h.regs.resolve_right fun ⟨_, _, _, e, _⟩ => by simp [regs.resolve_right n] at e
  · exact h.mmx.resolve_right fun ⟨e, _⟩ => by simp [mmx.resolve_right n] at e
  · exact h.flags.resolve_right fun ⟨_, _, e, _⟩ => by simp [flags.resolve_right n] at e
  · exact h.br.resolve_right fun e => by simp [br.resolve_right n] at e
  · exact (h.sr.resolve_right fun ⟨e, _⟩ => by simp [sr.resolve_right fun q => n q.1] at e).1
  · exact (h.sr.resolve_right fun ⟨e, _⟩ => by simp [sr.resolve_right fun q => n q.2] at e).2
  · exact h.mem.resolve_right fun ⟨e, _⟩ => by simp [mem.resolve_right n] at e
  · exact h.locks.resolve_right fun ⟨e, _⟩ => by simp [locks.resolve_right n] at e

/-- A state whose registers are those after a write of one had that register written. -/
theorem wroteReg_of {s s1 t : State} {n : RegNum} {sz : Size} {v : BitVec sz.bits} (he : s1.env = s.env)
    (hr : s1.regs = s.regs) (ht : t.regs = (wr s1 n sz v).regs) : WroteReg s t n sz v := by
  intro k i hi
  rw [getSlot_congr ht, wr_bits _ _ _ _ _ _ hi, he, getSlot_congr hr]

end Sys2Proof.Machine
end

