-- ==== Sys2Proof/Laws/PerInstr.lean ====
section
/-! SUPPORT. Statements for all instructions, one lemma per constructor of Instr. The family FormatBits: bits 37:36 of
the word of an instruction are those of its format (30_encoding.md R161). -/

namespace Sys2Proof.Laws

/-- Bits 37:36 of the format of an instruction (30_encoding.md R161). -/
def FormatBits.code : Instr → BitVec 2
  | .ld _ _ _
  | .ldf _ _ _
  | .ldst _ _ _
  | .ldm _ _ _
  | .cdaf _ _ _
  | .ldpf _ _ _
  | .ldstl _ _ _
  | .ldmstl _ _ _
  | .st _ _ _
  | .stf _ _ _
  | .stupd _ _ _
  | .stm _ _ _
  | .cda _ _ _
  | .cia _ _ _
  | .tia _ _ _
  | .lea _ _ _ => 0b01#2
  | .add _ _ _
  | .inc _ _ _
  | .cadd _ _ _
  | .or _ _ _
  | .mov _ _ _
  | .eor _ _ _
  | .adc _ _ _
  | .sbb _ _ _
  | .and _ _ _
  | .eand _ _ _
  | .band _ _ _
  | .sub _ _ _
  | .esub _ _ _
  | .dec _ _ _
  | .csub _ _ _
  | .xor _ _ _
  | .exor _ _ _
  | .cmp _ _ _
  | .sll _ _ _
  | .bll _ _ _
  | .srl _ _ _
  | .slc _ _ _
  | .rlc _ _ _
  | .src _ _ _
  | .rrc _ _ _
  | .sla _ _ _
  | .sra _ _ _
  | .sld _ _ _
  | .rld _ _ _
  | .rls _ _ _
  | .srd _ _ _
  | .rrd _ _ _
  | .mmx _ _ _
  | .rrs _ _ _
  | .zext8 _ _
  | .sext8 _ _
  | .zext16 _ _
  | .sext16 _ _
  | .rdflgs _ _ _
  | .daa _ _
  | .das _ _
  | .movcc _ _ _
  | .mul1s _ _
  | .mul1u _ _
  | .muleh _ _
  | .mulel _ _
  | .div1 _ _
  | .div2 _ _
  | .diver _ _
  | .diveq _ _
  | .rdxxx _ _ _
  | .rdflg _ _
  | .bswap _ _
  | .rdseg _ _ _
  | .wrdr _ _
  | .wrdl _ _
  | .wrxxx _ _ _
  | .wrip _ _
  | .wrdlip _ _
  | .chks _ _
  | .wrdh _ _
  | .unassigned _ => 0b00#2
  | .brcond _ _
  | .lddha _
  | .lddhab _
  | .ldaha _
  | .ldahab _
  | .ldk _
  | .fpop _
  | .ldkd _
  | .fpope _
  | .fault _ _
  | .noFormat _ => 0b10#2
  | .limm _ _ => 0b11#2

/-- The word of an instruction has the bits of its format. -/
def FormatBits.Statement (i : Instr) : Prop :=
  opField (encode i) 36 2 = FormatBits.code i

/-- Bits 37:36 of a word whose top three bits are fixed. -/
theorem FormatBits.top (x : BitVec 3) (y : BitVec 35) : opField (x ++ y) 36 2 = x.extractLsb' 1 2 := by
  unfold opField
  rw [field_hi x y (by decide)]

theorem FormatBits.ld (a : Address) (sz : IntSize) (data : RegNum) : FormatBits.Statement (.ld a sz data) :=
  ldSt_format _ _ _ _

theorem FormatBits.ldf (a : Address) (sz : FpSize) (data : RegNum) : FormatBits.Statement (.ldf a sz data) :=
  ldSt_format _ _ _ _

theorem FormatBits.ldst (a : Address) (sz : IntSize) (data : RegNum) : FormatBits.Statement (.ldst a sz data) :=
  ldSt_format _ _ _ _

theorem FormatBits.ldm (a : Address) (sz : FpSize) (data : RegNum) : FormatBits.Statement (.ldm a sz data) :=
  ldSt_format _ _ _ _

theorem FormatBits.cdaf (a : Address) (sz : FpSize) (data : RegNum) : FormatBits.Statement (.cdaf a sz data) :=
  ldSt_format _ _ _ _

theorem FormatBits.ldpf (a : Address) (sz : IntSize) (data : RegNum) : FormatBits.Statement (.ldpf a sz data) :=
  ldSt_format _ _ _ _

theorem FormatBits.ldstl (a : Address) (sz : IntSize) (data : RegNum) : FormatBits.Statement (.ldstl a sz data) :=
  ldSt_format _ _ _ _

theorem FormatBits.ldmstl (a : Address) (sz : FpSize) (data : RegNum) : FormatBits.Statement (.ldmstl a sz data) :=
  ldSt_format _ _ _ _

theorem FormatBits.st (a : Address) (sz : IntSize) (data : RegNum) : FormatBits.Statement (.st a sz data) :=
  ldSt_format _ _ _ _

theorem FormatBits.stf (a : Address) (sz : FpSize) (data : RegNum) : FormatBits.Statement (.stf a sz data) :=
  ldSt_format _ _ _ _

theorem FormatBits.stupd (a : Address) (sz : IntSize) (data : RegNum) : FormatBits.Statement (.stupd a sz data) :=
  ldSt_format _ _ _ _

theorem FormatBits.stm (a : Address) (sz : FpSize) (data : RegNum) : FormatBits.Statement (.stm a sz data) :=
  ldSt_format _ _ _ _

theorem FormatBits.cda (a : Address) (sz : IntSize) (data : RegNum) : FormatBits.Statement (.cda a sz data) :=
  ldSt_format _ _ _ _

theorem FormatBits.cia (a : Address) (sz : IntSize) (data : RegNum) : FormatBits.Statement (.cia a sz data) :=
  ldSt_format _ _ _ _

theorem FormatBits.tia (a : Address) (sz : IntSize) (data : RegNum) : FormatBits.Statement (.tia a sz data) :=
  ldSt_format _ _ _ _

theorem FormatBits.lea (a : Address) (sz : IntSize) (data : RegNum) : FormatBits.Statement (.lea a sz data) :=
  ldSt_format _ _ _ _

theorem FormatBits.add (t0 : Bool) (st : Option Ext4) (o : RegOperands) : FormatBits.Statement (.add t0 st o) :=
  reg_format _ _ _ _ _

theorem FormatBits.inc (sz : RegSize) (dest : RegNum) (src1 : RegNum) : FormatBits.Statement (.inc sz dest src1) :=
  reg_format _ _ _ _ _

theorem FormatBits.cadd (t0 : Bool) (st : Option Ext4) (o : RegOperands) : FormatBits.Statement (.cadd t0 st o) :=
  reg_format _ _ _ _ _

theorem FormatBits.or (t0 : Bool) (st : Option Ext4) (o : RegOperands) : FormatBits.Statement (.or t0 st o) :=
  reg_format _ _ _ _ _

theorem FormatBits.mov (sz : RegSize) (dest : RegNum) (src2 : Src2) : FormatBits.Statement (.mov sz dest src2) :=
  reg_format _ _ _ _ _

theorem FormatBits.eor (t0 : Bool) (st : Option Ext4) (o : RegOperands) : FormatBits.Statement (.eor t0 st o) :=
  reg_format _ _ _ _ _

theorem FormatBits.adc (t0 : Bool) (st : Option Ext4) (o : RegOperands) : FormatBits.Statement (.adc t0 st o) :=
  reg_format _ _ _ _ _

theorem FormatBits.sbb (t0 : Bool) (st : Option Ext4) (o : RegOperands) : FormatBits.Statement (.sbb t0 st o) :=
  reg_format _ _ _ _ _

theorem FormatBits.and (t0 : Bool) (st : Option Ext4) (o : RegOperands) : FormatBits.Statement (.and t0 st o) :=
  reg_format _ _ _ _ _

theorem FormatBits.eand (t0 : Bool) (st : Option Ext4) (o : RegOperands) : FormatBits.Statement (.eand t0 st o) :=
  reg_format _ _ _ _ _

theorem FormatBits.band (t0 : Bool) (st : Option Ext4) (o : RegOperands) : FormatBits.Statement (.band t0 st o) :=
  reg_format _ _ _ _ _

theorem FormatBits.sub (t0 : Bool) (st : Option Ext4) (o : RegOperands) : FormatBits.Statement (.sub t0 st o) :=
  reg_format _ _ _ _ _

theorem FormatBits.esub (t0 : Bool) (st : Option Ext4) (o : RegOperands) : FormatBits.Statement (.esub t0 st o) :=
  reg_format _ _ _ _ _

theorem FormatBits.dec (sz : RegSize) (dest : RegNum) (src1 : RegNum) : FormatBits.Statement (.dec sz dest src1) :=
  reg_format _ _ _ _ _

theorem FormatBits.csub (t0 : Bool) (st : Option Ext4) (o : RegOperands) : FormatBits.Statement (.csub t0 st o) :=
  reg_format _ _ _ _ _

theorem FormatBits.xor (t0 : Bool) (st : Option Ext4) (o : RegOperands) : FormatBits.Statement (.xor t0 st o) :=
  reg_format _ _ _ _ _

theorem FormatBits.exor (t0 : Bool) (st : Option Ext4) (o : RegOperands) : FormatBits.Statement (.exor t0 st o) :=
  reg_format _ _ _ _ _

theorem FormatBits.cmp (t0 : Bool) (st : Option Ext4) (o : RegOperands) : FormatBits.Statement (.cmp t0 st o) :=
  reg_format _ _ _ _ _

theorem FormatBits.sll (t0 : Bool) (st : Option Ext4) (o : RegOperands) : FormatBits.Statement (.sll t0 st o) :=
  reg_format _ _ _ _ _

theorem FormatBits.bll (t0 : Bool) (st : Option Ext4) (o : RegOperands) : FormatBits.Statement (.bll t0 st o) :=
  reg_format _ _ _ _ _

theorem FormatBits.srl (t0 : Bool) (st : Option Ext4) (o : RegOperands) : FormatBits.Statement (.srl t0 st o) :=
  reg_format _ _ _ _ _

theorem FormatBits.slc (t0 : Bool) (st : Option Ext4) (o : RegOperands) : FormatBits.Statement (.slc t0 st o) :=
  reg_format _ _ _ _ _

theorem FormatBits.rlc (t0 : Bool) (st : Option Ext4) (o : RegOperands) : FormatBits.Statement (.rlc t0 st o) :=
  reg_format _ _ _ _ _

theorem FormatBits.src (t0 : Bool) (st : Option Ext4) (o : RegOperands) : FormatBits.Statement (.src t0 st o) :=
  reg_format _ _ _ _ _

theorem FormatBits.rrc (t0 : Bool) (st : Option Ext4) (o : RegOperands) : FormatBits.Statement (.rrc t0 st o) :=
  reg_format _ _ _ _ _

theorem FormatBits.sla (t0 : Bool) (st : Option Ext4) (o : RegOperands) : FormatBits.Statement (.sla t0 st o) :=
  reg_format _ _ _ _ _

theorem FormatBits.sra (t0 : Bool) (st : Option Ext4) (o : RegOperands) : FormatBits.Statement (.sra t0 st o) :=
  reg_format _ _ _ _ _

theorem FormatBits.sld (t0 : Bool) (st : Option Ext4) (o : RegOperands) : FormatBits.Statement (.sld t0 st o) :=
  reg_format _ _ _ _ _

theorem FormatBits.rld (t0 : Bool) (st : Option Ext4) (o : RegOperands) : FormatBits.Statement (.rld t0 st o) :=
  reg_format _ _ _ _ _

theorem FormatBits.rls (t0 : Bool) (st : Option Ext4) (o : RegOperands) : FormatBits.Statement (.rls t0 st o) :=
  reg_format _ _ _ _ _

theorem FormatBits.srd (t0 : Bool) (st : Option Ext4) (o : RegOperands) : FormatBits.Statement (.srd t0 st o) :=
  reg_format _ _ _ _ _

theorem FormatBits.rrd (t0 : Bool) (st : Option Ext4) (o : RegOperands) : FormatBits.Statement (.rrd t0 st o) :=
  reg_format _ _ _ _ _

theorem FormatBits.mmx (t0 : Bool) (st : Option Ext4) (o : RegOperands) : FormatBits.Statement (.mmx t0 st o) :=
  reg_format _ _ _ _ _

theorem FormatBits.rrs (t0 : Bool) (st : Option Ext4) (o : RegOperands) : FormatBits.Statement (.rrs t0 st o) :=
  reg_format _ _ _ _ _

theorem FormatBits.zext8 (st : Option Ext4) (o : RegOperands) : FormatBits.Statement (.zext8 st o) :=
  reg_format _ _ _ _ _

theorem FormatBits.sext8 (st : Option Ext4) (o : RegOperands) : FormatBits.Statement (.sext8 st o) :=
  reg_format _ _ _ _ _

theorem FormatBits.zext16 (st : Option Ext4) (o : RegOperands) : FormatBits.Statement (.zext16 st o) :=
  reg_format _ _ _ _ _

theorem FormatBits.sext16 (st : Option Ext4) (o : RegOperands) : FormatBits.Statement (.sext16 st o) :=
  reg_format _ _ _ _ _

theorem FormatBits.rdflgs (t0 : Bool) (st : Option Ext4) (o : RegOperands) : FormatBits.Statement (.rdflgs t0 st o) :=
  reg_format _ _ _ _ _

theorem FormatBits.daa (st : Option Ext4) (o : RegOperands) : FormatBits.Statement (.daa st o) :=
  reg_format _ _ _ _ _

theorem FormatBits.das (st : Option Ext4) (o : RegOperands) : FormatBits.Statement (.das st o) :=
  reg_format _ _ _ _ _

theorem FormatBits.movcc (cc : BitVec 5) (ss : Bool) (o : RegOperands) : FormatBits.Statement (.movcc cc ss o) :=
  reg_format _ _ _ _ _

theorem FormatBits.mul1s (st : Option Ext4) (o : RegOperands) : FormatBits.Statement (.mul1s st o) :=
  reg_format _ _ _ _ _

theorem FormatBits.mul1u (st : Option Ext4) (o : RegOperands) : FormatBits.Statement (.mul1u st o) :=
  reg_format _ _ _ _ _

theorem FormatBits.muleh (st : Option Ext4) (o : RegOperands) : FormatBits.Statement (.muleh st o) :=
  reg_format _ _ _ _ _

theorem FormatBits.mulel (st : Option Ext4) (o : RegOperands) : FormatBits.Statement (.mulel st o) :=
  reg_format _ _ _ _ _

theorem FormatBits.div1 (st : Option Ext4) (o : RegOperands) : FormatBits.Statement (.div1 st o) :=
  reg_format _ _ _ _ _

theorem FormatBits.div2 (st : Option Ext4) (o : RegOperands) : FormatBits.Statement (.div2 st o) :=
  reg_format _ _ _ _ _

theorem FormatBits.diver (st : Option Ext4) (o : RegOperands) : FormatBits.Statement (.diver st o) :=
  reg_format _ _ _ _ _

theorem FormatBits.diveq (st : Option Ext4) (o : RegOperands) : FormatBits.Statement (.diveq st o) :=
  reg_format _ _ _ _ _

theorem FormatBits.rdxxx (k : BitVec 5) (ss : Bool) (o : RegOperands) : FormatBits.Statement (.rdxxx k ss o) :=
  reg_format _ _ _ _ _

theorem FormatBits.rdflg (st : Option Ext4) (o : RegOperands) : FormatBits.Statement (.rdflg st o) :=
  reg_format _ _ _ _ _

theorem FormatBits.bswap (st : Option Ext4) (o : RegOperands) : FormatBits.Statement (.bswap st o) :=
  reg_format _ _ _ _ _

theorem FormatBits.rdseg (k : BitVec 5) (ss : Bool) (o : RegOperands) : FormatBits.Statement (.rdseg k ss o) :=
  reg_format _ _ _ _ _

theorem FormatBits.wrdr (st : Option Ext4) (o : RegOperands) : FormatBits.Statement (.wrdr st o) :=
  reg_format _ _ _ _ _

theorem FormatBits.wrdl (st : Option Ext4) (o : RegOperands) : FormatBits.Statement (.wrdl st o) :=
  reg_format _ _ _ _ _

theorem FormatBits.wrxxx (k : BitVec 5) (ss : Bool) (o : RegOperands) : FormatBits.Statement (.wrxxx k ss o) :=
  reg_format _ _ _ _ _

theorem FormatBits.wrip (st : Option Ext4) (o : RegOperands) : FormatBits.Statement (.wrip st o) :=
  reg_format _ _ _ _ _

theorem FormatBits.wrdlip (st : Option Ext4) (o : RegOperands) : FormatBits.Statement (.wrdlip st o) :=
  reg_format _ _ _ _ _

theorem FormatBits.chks (st : Option Ext4) (o : RegOperands) : FormatBits.Statement (.chks st o) :=
  reg_format _ _ _ _ _

theorem FormatBits.wrdh (st : Option Ext4) (o : RegOperands) : FormatBits.Statement (.wrdh st o) :=
  reg_format _ _ _ _ _

theorem FormatBits.brcond (low : BitVec 2) (o : SpecOperands) : FormatBits.Statement (.brcond low o) :=
  (spec_top _ _).1

theorem FormatBits.lddha (o : SpecOperands) : FormatBits.Statement (.lddha o) :=
  (spec_top _ _).1

theorem FormatBits.lddhab (o : SpecOperands) : FormatBits.Statement (.lddhab o) :=
  (spec_top _ _).1

theorem FormatBits.ldaha (o : SpecOperands) : FormatBits.Statement (.ldaha o) :=
  (spec_top _ _).1

theorem FormatBits.ldahab (o : SpecOperands) : FormatBits.Statement (.ldahab o) :=
  (spec_top _ _).1

theorem FormatBits.ldk (o : SpecOperands) : FormatBits.Statement (.ldk o) :=
  (spec_top _ _).1

theorem FormatBits.fpop (o : SpecOperands) : FormatBits.Statement (.fpop o) :=
  (spec_top _ _).1

theorem FormatBits.ldkd (o : SpecOperands) : FormatBits.Statement (.ldkd o) :=
  (spec_top _ _).1

theorem FormatBits.fpope (o : SpecOperands) : FormatBits.Statement (.fpope o) :=
  (spec_top _ _).1

theorem FormatBits.fault (low : BitVec 2) (o : SpecOperands) : FormatBits.Statement (.fault low o) :=
  (spec_top _ _).1

theorem FormatBits.limm (dest : BitVec 4) (imm : Word) : FormatBits.Statement (.limm dest imm) :=
  limm_format _ _

theorem FormatBits.noFormat (body : BitVec 35) : FormatBits.Statement (.noFormat body) :=
  (FormatBits.top _ _).trans (show (0b100#3).extractLsb' 1 2 = 0b10#2 by decide)

theorem FormatBits.unassigned (body : BitVec 31) : FormatBits.Statement (.unassigned body) := by
  unfold FormatBits.Statement encode opField
  rw [field_hi _ _ (by decide), field_hi _ _ (by decide)]
  exact field_self _

end Sys2Proof.Laws
end

