-- ==== Sys2Proof/Laws/Stops.lean ====
section
/-! SUPPORT. How the shared forms stop: those that access no memory only refuse, an access stops with a fault that names
the `pc` of its Op, and no meaning answers the end of a run (70_reset_and_hazards.md R455). -/

namespace Sys2Proof.Machine

/-- A refusal that is not one of the end of a run. -/
def Refusal.ofOp : Refusal → Bool
  | .final _ | .pcBeyond _ => false
  | _ => true

/-- Everything a result can stop with meets `p`. -/
def StopsIn {α : Type} (p : Stop → Prop) (x : Res α) : Prop :=
  ∀ e, x = .error e → p e

/-- A stop of an Op that accesses no memory: a refusal. -/
def Refuses (e : Stop) : Prop :=
  ∃ r, e = .refusal r ∧ r.ofOp = true

/-- A stop of an Op at `pc` that accesses memory or checks an address: a refusal, or a fault of an access. -/
def AccessStop (pc : Nat) (e : Stop) : Prop :=
  Refuses e ∨ (∃ seg ea, e = .fault (.segFault seg ea pc)) ∨ (∃ ea kind, e = .fault (.pageFault ea kind pc)) ∨
    ∃ p, e = .fault (.stuck p pc)

theorem StopsIn.mono {α : Type} {p q : Stop → Prop} {x : Res α} (h : StopsIn p x) (hpq : ∀ e, p e → q e) :
    StopsIn q x :=
  fun e he => hpq e (h e he)

@[simp] theorem stopsIn_ok {α : Type} (p : Stop → Prop) (a : α) : StopsIn p (.ok a : Res α) :=
  fun _ h => nomatch h

theorem stopsIn_bind {α β : Type} {p : Stop → Prop} {x : Res α} {f : α → Res β} (h : StopsIn p x)
    (hf : ∀ a, StopsIn p (f a)) : StopsIn p (x >>= f) := by
  intro e he
  rcases res_bind_error.mp he with h1 | ⟨a, -, h1⟩
  · exact h e h1
  · exact hf a e h1

theorem stopsIn_refuse {α : Type} {r : Refusal} (h : r.ofOp = true) : StopsIn Refuses (refuse r : Res α) := by
  rintro e he
  cases he
  exact ⟨r, rfl, h⟩

theorem stopsIn_refuseUnless {c : Bool} {r : Refusal} (h : r.ofOp = true) : StopsIn Refuses (refuseUnless c r) := by
  intro e he
  obtain ⟨-, rfl⟩ := refuseUnless_error.mp he
  exact ⟨r, rfl, h⟩

/-! ### Forms that only refuse -/

theorem rxGuard_stops (s : State) (o : RegOperands) : StopsIn Refuses (rxGuard s o) :=
  stopsIn_refuseUnless rfl

theorem type0Guard_stops (s : State) (t0 : Bool) : StopsIn Refuses (type0Guard s t0) :=
  stopsIn_refuseUnless rfl

theorem noStatusGuard_stops (s : State) (ss : Bool) : StopsIn Refuses (noStatusGuard s ss) :=
  stopsIn_refuseUnless rfl

theorem nonByteGuard_stops (s : State) (o : RegOperands) : StopsIn Refuses (nonByteGuard s o) :=
  stopsIn_refuseUnless rfl

theorem byteGuard_stops (s : State) (o : RegOperands) : StopsIn Refuses (byteGuard s o) :=
  stopsIn_refuseUnless rfl

theorem oneSourceGuard_stops (s : State) (o : RegOperands) : StopsIn Refuses (oneSourceGuard s o) :=
  stopsIn_refuseUnless rfl

theorem arithGuard_stops (t0 : Bool) (st : Option Ext4) (o : RegOperands) (s : State) :
    StopsIn Refuses (arithGuard t0 st o s) :=
  stopsIn_bind (rxGuard_stops s o) fun _ => stopsIn_bind (type0Guard_stops s t0) fun _ => stopsIn_refuseUnless rfl

theorem shiftGuard_stops (t0 : Bool) (st : Option Ext4) (o : RegOperands) (s : State) :
    StopsIn Refuses (shiftGuard t0 st o s) :=
  stopsIn_bind (rxGuard_stops s o) fun _ => stopsIn_bind (type0Guard_stops s t0) fun _ => noStatusGuard_stops _ _

theorem specialGuard_stops (ss : Bool) (o : RegOperands) (s : State) : StopsIn Refuses (specialGuard ss o s) :=
  stopsIn_bind (rxGuard_stops s o) fun _ => stopsIn_bind (noStatusGuard_stops s ss) fun _ => nonByteGuard_stops _ _

theorem arithOp_stops (f : {w : Nat} → BitVec w → BitVec w → Alu w) (b t0 : Bool) (st : Option Ext4) (o : RegOperands)
    (s : State) : StopsIn Refuses (arithOp f b t0 st o s) :=
  stopsIn_bind (arithGuard_stops t0 st o s) fun _ => stopsIn_ok _ _

theorem logicOp_stops (f : {w : Nat} → BitVec w → BitVec w → BitVec w) (t0 : Bool) (st : Option Ext4)
    (o : RegOperands) (s : State) : StopsIn Refuses (logicOp f t0 st o s) :=
  stopsIn_bind (arithGuard_stops t0 st o s) fun _ => stopsIn_ok _ _

theorem shiftOp_stops (f : {w : Nat} → BitVec w → Nat → BitVec w) (t0 : Bool) (st : Option Ext4) (o : RegOperands)
    (s : State) : StopsIn Refuses (shiftOp f t0 st o s) :=
  stopsIn_bind (shiftGuard_stops t0 st o s) fun _ => stopsIn_ok _ _

theorem regopFnOp_stops (o : RegOperands) (s : State) : StopsIn Refuses (regopFnOp o s) :=
  stopsIn_bind (stopsIn_refuseUnless rfl) fun _ => stopsIn_ok _ _

theorem freeShiftOp_stops (t0 : Bool) (st : Option Ext4) (o : RegOperands) (s : State) :
    StopsIn Refuses (freeShiftOp t0 st o s) :=
  stopsIn_bind (shiftGuard_stops t0 st o s) fun _ => stopsIn_bind (nonByteGuard_stops s o) fun _ => regopFnOp_stops o s

theorem freeByteShiftOp_stops (t0 : Bool) (st : Option Ext4) (o : RegOperands) (s : State) :
    StopsIn Refuses (freeByteShiftOp t0 st o s) :=
  stopsIn_bind (shiftGuard_stops t0 st o s) fun _ => stopsIn_bind (byteGuard_stops s o) fun _ => regopFnOp_stops o s

theorem freeOp_stops (ss : Bool) (o : RegOperands) (s : State) : StopsIn Refuses (freeOp ss o s) :=
  stopsIn_bind (specialGuard_stops ss o s) fun _ => regopFnOp_stops o s

theorem freeByteOp_stops (ss : Bool) (o : RegOperands) (s : State) : StopsIn Refuses (freeByteOp ss o s) :=
  stopsIn_bind (rxGuard_stops s o) fun _ => stopsIn_bind (noStatusGuard_stops s ss) fun _ =>
    stopsIn_bind (byteGuard_stops s o) fun _ => regopFnOp_stops o s

theorem extendOp_stops (f : {w : Nat} → BitVec w → BitVec w) (st : Option Ext4) (o : RegOperands) (s : State) :
    StopsIn Refuses (extendOp f st o s) :=
  stopsIn_bind (specialGuard_stops _ o s) fun _ => stopsIn_bind (oneSourceGuard_stops s o) fun _ => stopsIn_ok _ _

theorem condTest_stops (s : State) (c : BitVec 4) : StopsIn Refuses (condTest s c) := by
  unfold condTest
  split <;> first | exact stopsIn_refuse rfl | exact stopsIn_ok _ _

theorem cond_stops (s : State) (cc : BitVec 5) : StopsIn Refuses (Machine.cond s cc) :=
  stopsIn_bind (condTest_stops s _) fun _ => stopsIn_ok _ _

theorem movccOp_stops (cc : BitVec 5) (ss : Bool) (o : RegOperands) (s : State) :
    StopsIn Refuses (movccOp cc ss o s) :=
  stopsIn_bind (specialGuard_stops ss o s) fun _ => stopsIn_bind (stopsIn_refuseUnless rfl) fun _ =>
    stopsIn_bind (cond_stops s cc) fun _ => stopsIn_ok _ _

theorem srOperand_stops (k : BitVec 5) (ss : Bool) (o : RegOperands) (s : State) :
    StopsIn Refuses (srOperand k ss o s) := by
  refine stopsIn_bind (specialGuard_stops ss o s) fun _ => ?_
  cases srOfNumber k with
  | none => exact stopsIn_refuse rfl
  | some r => exact stopsIn_bind (stopsIn_refuseUnless rfl) fun _ => stopsIn_ok _ _

theorem rdxxxOp_stops (k : BitVec 5) (ss : Bool) (o : RegOperands) (s : State) : StopsIn Refuses (rdxxxOp k ss o s) :=
  stopsIn_bind (srOperand_stops k ss o s) fun _ => stopsIn_ok _ _

theorem wrxxxOp_stops (k : BitVec 5) (ss : Bool) (o : RegOperands) (s : State) : StopsIn Refuses (wrxxxOp k ss o s) :=
  stopsIn_bind (srOperand_stops k ss o s) fun _ => stopsIn_bind (oneSourceGuard_stops s o) fun _ =>
    stopsIn_bind (stopsIn_refuseUnless rfl) fun _ => stopsIn_bind (stopsIn_refuseUnless rfl) fun _ => stopsIn_ok _ _

theorem bswapOp_stops (st : Option Ext4) (o : RegOperands) (s : State) : StopsIn Refuses (bswapOp st o s) :=
  stopsIn_bind (specialGuard_stops _ o s) fun _ => stopsIn_bind (stopsIn_refuseUnless rfl) fun _ =>
    stopsIn_bind (oneSourceGuard_stops s o) fun _ => stopsIn_ok _ _

/-! ### Forms that access memory or check an address -/

theorem checkedAddrs_stops (s : State) (seg : Seg) (ea : Word) (n : Nat) (kind : AccessKind) :
    StopsIn (AccessStop s.pc) (checkedAddrs s seg ea n kind) := by
  intro e he
  rcases checkedAddrs_error.mp he with ⟨-, rfl⟩ | ⟨-, -, rfl⟩
  · exact .inr (.inl ⟨seg, ea, rfl⟩)
  · exact .inr (.inr (.inl ⟨ea, kind, rfl⟩))

theorem accessCells_stops (s : State) (ea : Word) (kind : AccessKind) (ls : List Word) :
    StopsIn (AccessStop s.pc) (accessCells s ea kind ls) := by
  intro e he
  obtain ⟨j, h, -, ⟨-, rfl⟩ | ⟨p, -, -, rfl⟩⟩ := accessCells_error.mp he
  · exact .inr (.inr (.inl ⟨ea, kind, rfl⟩))
  · exact .inr (.inr (.inr ⟨_, rfl⟩))

theorem access_stops (s : State) (seg : Seg) (ea : Word) (n : Nat) (kind : AccessKind) :
    StopsIn (AccessStop s.pc) (access s seg ea n kind) :=
  stopsIn_bind ((stopsIn_refuseUnless rfl).mono fun _ => .inl) fun _ =>
    stopsIn_bind ((stopsIn_refuseUnless rfl).mono fun _ => .inl) fun _ => by
      refine stopsIn_bind (fun e he => ?_) fun _ => accessCells_stops s ea kind _
      obtain ⟨-, rfl⟩ := raiseUnless_error.mp he
      exact .inr (.inl ⟨seg, ea, rfl⟩)

theorem memRead_stops (s : State) (seg : Seg) (ea : Word) (n : Nat) (kind : AccessKind) :
    StopsIn (AccessStop s.pc) (memRead s seg ea n kind) :=
  stopsIn_bind (access_stops s seg ea n kind) fun _ => stopsIn_ok _ _

theorem memWrite_stops (s : State) (seg : Seg) (ea : Word) (n : Nat) (v : DWord) :
    StopsIn (AccessStop s.pc) (memWrite s seg ea n v) :=
  stopsIn_bind (access_stops s seg ea n .write) fun _ => stopsIn_ok _ _

theorem loadInt_stops (kind : AccessKind) (locked : Bool) (a : Address) (sz : IntSize) (d : RegNum) (s : State) :
    StopsIn (AccessStop s.pc) (loadInt kind locked a sz d s) :=
  stopsIn_bind (memRead_stops s _ _ _ kind) fun _ => stopsIn_ok _ _

theorem mmOperands_stops (s : State) (sz : FpSize) (d : RegNum) : StopsIn Refuses (mmOperands s sz d) := by
  unfold mmOperands
  split <;> first | exact stopsIn_refuse rfl | exact stopsIn_ok _ _

theorem loadMm_stops (kind : AccessKind) (locked : Bool) (a : Address) (sz : FpSize) (d : RegNum) (s : State) :
    StopsIn (AccessStop s.pc) (loadMm kind locked a sz d s) :=
  stopsIn_bind ((mmOperands_stops s sz d).mono fun _ => .inl) fun _ =>
    stopsIn_bind ((stopsIn_refuseUnless rfl).mono fun _ => .inl) fun _ =>
      stopsIn_bind (memRead_stops s _ _ _ kind) fun _ => stopsIn_ok _ _

theorem checkAddress_stops (a : Address) (n : Nat) (s : State) :
    StopsIn (AccessStop s.pc) (checkAddress a n s) :=
  stopsIn_bind (stopsIn_bind ((stopsIn_refuseUnless rfl).mono fun _ => .inl) fun _ =>
    checkedAddrs_stops s _ _ n .read) fun _ => stopsIn_ok _ _

/-- A check of an address is never stuck: it reads no byte (40_ldstops.md R236). -/
theorem checkAddress_not_stuck (a : Address) (n : Nat) (s : State) (p pc : Nat) :
    checkAddress a n s ≠ .error (.fault (.stuck p pc)) := by
  intro h
  simp only [checkAddress, checkData, res_bind_error, refuseUnless_error, checkedAddrs_error] at h
  simp at h

/-! ### The end of a run -/

theorem finish_refused_ofOp {pc : Nat} {x : Res State} (h : StopsIn (AccessStop pc) x) {r : Refusal}
    (hr : finish x = .refused r) : r.ofOp = true := by
  rcases h _ (finish_refused.mp hr) with ⟨q, hq, h⟩ | ⟨_, _, h⟩ | ⟨_, _, h⟩ | ⟨_, h⟩
  · cases hq; exact h
  · cases h
  · cases h
  · cases h

/-- No Op answers the end of a run: only the step does, where there is no Op. -/
theorem exec_refused_ofOp {i : Instr} {s : State} {r : Refusal} (h : exec i s = .refused r) : r.ofOp = true := by
  have key : ∀ {x : Res State}, StopsIn Refuses x → finish x = .refused r → r.ofOp = true :=
    fun hx hr => finish_refused_ofOp (pc := 0) (hx.mono fun _ => .inl) hr
  cases i <;> simp only [exec] at h
  case ld | ldst | ldstl => exact finish_refused_ofOp (loadInt_stops _ _ _ _ _ s) h
  case ldm | ldmstl => exact finish_refused_ofOp (loadMm_stops _ _ _ _ _ s) h
  case cda => exact finish_refused_ofOp (checkAddress_stops _ _ s) h
  case cdaf =>
    unfold execCdaf at h
    split at h
    · cases h; rfl
    · exact finish_refused_ofOp (checkAddress_stops _ _ s) h
  case cia =>
    refine finish_refused_ofOp (pc := s.pc) (stopsIn_bind (fun e he => ?_) fun _ => stopsIn_ok _ _) h
    obtain ⟨-, rfl⟩ := raiseUnless_error.mp he
    exact .inr (.inl ⟨_, _, rfl⟩)
  case st =>
    exact finish_refused_ofOp (stopsIn_bind (memWrite_stops s _ _ _ _) fun _ => stopsIn_ok _ _) h
  case stupd =>
    exact finish_refused_ofOp (stopsIn_bind (memWrite_stops s _ _ _ _) fun _ => stopsIn_ok _ _) h
  case stm =>
    exact finish_refused_ofOp (stopsIn_bind ((mmOperands_stops s _ _).mono fun _ => .inl) fun _ =>
      stopsIn_bind (memWrite_stops s _ _ _ _) fun _ => stopsIn_ok _ _) h
  case add | adc | sub | sbb | inc | dec | cmp => exact key (arithOp_stops _ _ _ _ _ s) h
  case or | and | xor => exact key (logicOp_stops _ _ _ _ s) h
  case mov => exact key (stopsIn_bind (nonByteGuard_stops s _) fun _ => logicOp_stops _ _ _ _ s) h
  case sll | srl | sra => exact key (shiftOp_stops _ _ _ _ s) h
  case slc | rlc | src | rrc | sld | rld => exact key (freeShiftOp_stops _ _ _ s) h
  case sla => exact key (stopsIn_bind (shiftGuard_stops _ _ _ s) fun _ => regopFnOp_stops _ s) h
  case rls | rrs => exact key (freeByteShiftOp_stops _ _ _ s) h
  case zext8 | sext8 | zext16 | sext16 => exact key (extendOp_stops _ _ _ s) h
  case rdflgs | mul1s | mul1u | muleh | mulel | div1 | div2 | diver | diveq | rdflg | rdseg =>
    exact key (freeOp_stops _ _ s) h
  case daa | das => exact key (freeByteOp_stops _ _ s) h
  case movcc => exact key (movccOp_stops _ _ _ s) h
  case rdxxx => exact key (rdxxxOp_stops _ _ _ s) h
  case wrxxx => exact key (wrxxxOp_stops _ _ _ s) h
  case bswap => exact key (bswapOp_stops _ _ s) h
  case brcond => exact key (stopsIn_bind (cond_stops s _) fun _ => stopsIn_ok _ _) h
  case ldk => exact key (stopsIn_bind (stopsIn_refuseUnless rfl) fun _ => stopsIn_ok _ _) h
  all_goals cases h
  all_goals rfl

end Sys2Proof.Machine
end

