-- ==== Sys2Proof/Tests/Slice0.lean ====
section
/-! SUPPORT. The model's own tests: the well-formedness checks, words written out from the encodings, one step of a
vector of 95_test_vectors.md (named V<n>) for the Ops, and for every statement with hypotheses a state and operands that
meet them. -/

namespace Sys2Proof.Tests

open Sys2Proof Sys2Proof.Machine

/-! ### Well-formedness -/

/-- An address for the smoke tests: `LS:[EBX + t0*1 + 8] .4`. -/
def addr : Address := ⟨.x1, .ls, .four, 0b0011#4, .disp8 8#8, 0b1111#4⟩

/-- Operands of a RegOp at a size: Dest and Src1 EAX, Src2 `n`. -/
def ops (sz : RegSize) (n : RegNum) : RegOperands := ⟨false, sz, 0b00000#5, 0b00000#5, .reg n⟩

theorem test_illformed_fp_size :
    [Instr.ldm addr .fpDSize 24#5, .ldmstl addr .fpDSize 24#5, .stm addr .fpDSize 24#5, .cdaf addr .fpDSize 24#5].all
      (fun i => i.illegality == some .dsz) = true := by
  decide

theorem test_illformed_mm_number :
    [Instr.ldm addr .eight 9#5, .ldmstl addr .eight 23#5, .stm addr .eight 16#5].all
      (fun i => i.illegality == some .mmReg) = true := by
  decide

theorem test_illformed_byte_size :
    [Instr.slc false none (ops .one 0#5), .sld false none (ops .one 0#5), .zext8 none (ops .one 0#5),
      .movcc 0#5 false (ops .one 0#5), .rdxxx 5#5 false (ops .one 0#5), .bswap none (ops .one 0#5),
      .wrdh none (ops .one 0#5), .mov .one 0#5 (.reg 0#5)].all (fun i => i.illegality == some .byteSize) = true := by
  decide

theorem test_illformed_byte_only :
    [Instr.rls false none (ops .two 0#5), .rrs false none (ops .four 0#5), .daa none (ops .dsize 0#5),
      .das none (ops .asize 0#5)].all (fun i => i.illegality == some .noEncoding) = true := by
  decide

theorem test_illformed_no_encoding :
    [Instr.cadd true none (ops .four 0#5), .rlc false none (ops .four 0#5), .mmx false none (ops .four 0#5)].all
      (fun i => i.illegality == some .noEncoding) = true := by
  decide

theorem test_wellformed :
    [Instr.ldm addr .eight 8#5, .stm addr .two 24#5, .rls false none (ops .one 0#5), .sla false none (ops .one 0#5),
      .zext8 none (ops .two 0#5), .inc .one 0#5 0#5].all (fun i => i.wellFormed) = true := by
  decide

/-! ### Decoding -/

/-- The word decodes to the instruction. -/
abbrev Decodes (w : OpWord) (i : Instr) : Prop :=
  decode w = .ok i

/-- The decoder refuses the word by this verdict. -/
abbrev Refuses (w : OpWord) (v : Illegal) : Prop :=
  decode w = .error v

/-- Words of the LdOps (30_encoding.md R170, R172), bit by bit. -/
theorem test_decode_ldOp :
    Decodes 0b01000000000000000100000011111101010110#38
      (.ld ⟨.x1, .es, .asize, 0b0011#4, .disp8 0b11110101#8, 0b0110#4⟩ .one 0b01000#5) ∧
    Decodes 0b01000101000100001101010011000000000110#38
      (.ldf ⟨.x2, .cs, .asize, 0b0011#4, .env32, 0b0110#4⟩ .fpDSize 0b11010#5) ∧
    Decodes 0b01001010001001000010100011111101010110#38
      (.ldst ⟨.x4, .ss, .ssize, 0b0011#4, .disp8 0b11110101#8, 0b0110#4⟩ .one 0b00101#5) ∧
    Decodes 0b01001111001101011100110011000000000110#38
      (.ldm ⟨.x8, .ds, .ssize, 0b0011#4, .env32, 0b0110#4⟩ .two 0b11001#5) ∧
    Decodes 0b01010000010010101101000011111101010110#38
      (.cdaf ⟨.x1, .fs, .four, 0b0011#4, .disp8 0b11110101#8, 0b0110#4⟩ .four 0b11010#5) ∧
    Decodes 0b01010101010110010010110011000000000110#38
      (.ldpf ⟨.x2, .gs, .four, 0b0011#4, .env32, 0b0110#4⟩ .two 0b00101#5) ∧
    Decodes 0b01011010011011100100000011111101010110#38
      (.ldstl ⟨.x4, .hs, .dsize, 0b0011#4, .disp8 0b11110101#8, 0b0110#4⟩ .four 0b01000#5) ∧
    Decodes 0b01011111100011100011010011000000000110#38
      (.ldmstl ⟨.x8, .ts0, .dsize, 0b0011#4, .env32, 0b0110#4⟩ .four 0b00110#5) := by
  decide

/-- Words of the StOps (30_encoding.md R170, R172), bit by bit. -/
theorem test_decode_stOp :
    Decodes 0b01100000100100100010100011111101010110#38
      (.st ⟨.x1, .ts1, .asize, 0b0011#4, .disp8 0b11110101#8, 0b0110#4⟩ .four 0b00101#5) ∧
    Decodes 0b01100101101000010100010011000000000110#38
      (.stf ⟨.x2, .ls, .asize, 0b0011#4, .env32, 0b0110#4⟩ .two 0b01000#5) ∧
    Decodes 0b01101010101101111101000011111101010110#38
      (.stupd ⟨.x4, .ms, .ssize, 0b0011#4, .disp8 0b11110101#8, 0b0110#4⟩ .dsize 0b11010#5) ∧
    Decodes 0b01101111110001110100010011000000000110#38
      (.stm ⟨.x8, (.os 0b00#2), .ssize, 0b0011#4, .env32, 0b0110#4⟩ .eight 0b01000#5) ∧
    Decodes 0b01110000110110000100000011111101010110#38
      (.cda ⟨.x1, (.os 0b01#2), .four, 0b0011#4, .disp8 0b11110101#8, 0b0110#4⟩ .one 0b01000#5) ∧
    Decodes 0b01110101111010001101010011000000000110#38
      (.cia ⟨.x2, (.os 0b10#2), .four, 0b0011#4, .env32, 0b0110#4⟩ .one 0b11010#5) ∧
    Decodes 0b01111010111111000010100011111101010110#38
      (.tia ⟨.x4, (.os 0b11#2), .dsize, 0b0011#4, .disp8 0b11110101#8, 0b0110#4⟩ .one 0b00101#5) ∧
    Decodes 0b01111111001111010100010011000000000110#38
      (.lea ⟨.x8, .ds, .dsize, 0b0011#4, .env32, 0b0110#4⟩ .two 0b01000#5) := by
  decide

/-- Words of the RegOps of Table 2.31 (30_encoding.md R185, 41_regops.md R263), bit by bit. -/
theorem test_decode_arith :
    Decodes 0b00000001000000001001000111000000011001#38
      (.add true none ⟨false, .one, 0b10010#5, 0b00111#5, .reg 0b11001#5⟩) ∧
    Decodes 0b00000011000000111001000111000110000101#38
      (.or true none ⟨false, .dsize, 0b10010#5, 0b00111#5, .imm 0b10000101#8⟩) ∧
    Decodes 0b00000100011001001001000111001000011001#38
      (.adc false (some 0b0110#4) ⟨false, .asize, 0b10010#5, 0b00111#5, .reg 0b11001#5⟩) ∧
    Decodes 0b00000110011001011001000111001110000101#38
      (.sbb false (some 0b0110#4) ⟨false, .ssize, 0b10010#5, 0b00111#5, .imm 0b10000101#8⟩) ∧
    Decodes 0b00001000000000011001000111000000011001#38
      (.and false none ⟨false, .two, 0b10010#5, 0b00111#5, .reg 0b11001#5⟩) ∧
    Decodes 0b00001011000010101001000111000110000101#38
      (.sub true none ⟨true, .four, 0b10010#5, 0b00111#5, .imm 0b10000101#8⟩) ∧
    Decodes 0b00001101011000111001000111001000011001#38
      (.xor true (some 0b0110#4) ⟨false, .dsize, 0b10010#5, 0b00111#5, .reg 0b11001#5⟩) ∧
    Decodes 0b00001111011001001001000111001110000101#38
      (.cmp true (some 0b0110#4) ⟨false, .asize, 0b10010#5, 0b00111#5, .imm 0b10000101#8⟩) := by
  decide

/-- Words of the RegOps of Table 2.32 (41_regops.md R264), bit by bit. -/
theorem test_decode_shift :
    Decodes 0b00010000000001011001000111000000011001#38
      (.sll false none ⟨false, .ssize, 0b10010#5, 0b00111#5, .reg 0b11001#5⟩) ∧
    Decodes 0b00010010000000011001000111000110000101#38
      (.srl false none ⟨false, .two, 0b10010#5, 0b00111#5, .imm 0b10000101#8⟩) ∧
    Decodes 0b00010100011000101001000111001000011001#38
      (.slc false (some 0b0110#4) ⟨false, .four, 0b10010#5, 0b00111#5, .reg 0b11001#5⟩) ∧
    Decodes 0b00010111011000111001000111001110000101#38
      (.src true (some 0b0110#4) ⟨false, .dsize, 0b10010#5, 0b00111#5, .imm 0b10000101#8⟩) ∧
    Decodes 0b00011001000010001001000111000000011001#38
      (.sla true none ⟨true, .one, 0b10010#5, 0b00111#5, .reg 0b11001#5⟩) ∧
    Decodes 0b00011011000001011001000111000110000101#38
      (.sra true none ⟨false, .ssize, 0b10010#5, 0b00111#5, .imm 0b10000101#8⟩) ∧
    Decodes 0b00011100011000011001000111001000011001#38
      (.sld false (some 0b0110#4) ⟨false, .two, 0b10010#5, 0b00111#5, .reg 0b11001#5⟩) ∧
    Decodes 0b00011100011000001001000111001110000101#38
      (.rls false (some 0b0110#4) ⟨false, .one, 0b10010#5, 0b00111#5, .imm 0b10000101#8⟩) ∧
    Decodes 0b00011110000000111001000111000000011001#38
      (.srd false none ⟨false, .dsize, 0b10010#5, 0b00111#5, .reg 0b11001#5⟩) ∧
    Decodes 0b00011111000000001001000111000110000101#38
      (.rrs true none ⟨false, .one, 0b10010#5, 0b00111#5, .imm 0b10000101#8⟩) := by
  decide

/-- Words of the RegOps of Table 2.33 (41_regops.md R265), bit by bit. -/
theorem test_decode_other :
    Decodes 0b00100000011001011001000111001000011001#38
      (.zext8 (some 0b0110#4) ⟨false, .ssize, 0b10010#5, 0b00111#5, .reg 0b11001#5⟩) ∧
    Decodes 0b00100001011010011001000111001110000101#38
      (.sext8 (some 0b0110#4) ⟨true, .two, 0b10010#5, 0b00111#5, .imm 0b10000101#8⟩) ∧
    Decodes 0b00100010000000101001000111000000011001#38
      (.zext16 none ⟨false, .four, 0b10010#5, 0b00111#5, .reg 0b11001#5⟩) ∧
    Decodes 0b00100011000000111001000111000110000101#38
      (.sext16 none ⟨false, .dsize, 0b10010#5, 0b00111#5, .imm 0b10000101#8⟩) ∧
    Decodes 0b00100100011001001001000111001000011001#38
      (.rdflgs false (some 0b0110#4) ⟨false, .asize, 0b10010#5, 0b00111#5, .reg 0b11001#5⟩) ∧
    Decodes 0b00100100011000001001000111001110000101#38
      (.daa (some 0b0110#4) ⟨false, .one, 0b10010#5, 0b00111#5, .imm 0b10000101#8⟩) ∧
    Decodes 0b00100101000000001001000111000000011001#38
      (.das none ⟨false, .one, 0b10010#5, 0b00111#5, .reg 0b11001#5⟩) ∧
    Decodes 0b00100111011000101001000111000110000101#38
      (.movcc 0b10110#5 false ⟨false, .four, 0b10010#5, 0b00111#5, .imm 0b10000101#8⟩) ∧
    Decodes 0b00101000011010111001000111001000011001#38
      (.mul1s (some 0b0110#4) ⟨true, .dsize, 0b10010#5, 0b00111#5, .reg 0b11001#5⟩) ∧
    Decodes 0b00101001011001001001000111001110000101#38
      (.mul1u (some 0b0110#4) ⟨false, .asize, 0b10010#5, 0b00111#5, .imm 0b10000101#8⟩) ∧
    Decodes 0b00101010000001011001000111000000011001#38
      (.muleh none ⟨false, .ssize, 0b10010#5, 0b00111#5, .reg 0b11001#5⟩) ∧
    Decodes 0b00101011000000011001000111000110000101#38
      (.mulel none ⟨false, .two, 0b10010#5, 0b00111#5, .imm 0b10000101#8⟩) ∧
    Decodes 0b00101100011000101001000111001000011001#38
      (.div1 (some 0b0110#4) ⟨false, .four, 0b10010#5, 0b00111#5, .reg 0b11001#5⟩) ∧
    Decodes 0b00101101011000111001000111001110000101#38
      (.div2 (some 0b0110#4) ⟨false, .dsize, 0b10010#5, 0b00111#5, .imm 0b10000101#8⟩) ∧
    Decodes 0b00101110000001001001000111000000011001#38
      (.diver none ⟨false, .asize, 0b10010#5, 0b00111#5, .reg 0b11001#5⟩) ∧
    Decodes 0b00101111000011011001000111000110000101#38
      (.diveq none ⟨true, .ssize, 0b10010#5, 0b00111#5, .imm 0b10000101#8⟩) := by
  decide

/-- Words of the RegOps of Table 2.34 (41_regops.md R266), bit by bit. -/
theorem test_decode_special :
    Decodes 0b00110000011000011001000111001000011001#38
      (.rdxxx 0b00110#5 true ⟨false, .two, 0b10010#5, 0b00111#5, .reg 0b11001#5⟩) ∧
    Decodes 0b00110010011000101001000111001110000101#38
      (.rdflg (some 0b0110#4) ⟨false, .four, 0b10010#5, 0b00111#5, .imm 0b10000101#8⟩) ∧
    Decodes 0b00110011000000111001000111000000011001#38
      (.bswap none ⟨false, .dsize, 0b10010#5, 0b00111#5, .reg 0b11001#5⟩) ∧
    Decodes 0b00110101011001001001000111000110000101#38
      (.rdseg 0b10110#5 false ⟨false, .asize, 0b10010#5, 0b00111#5, .imm 0b10000101#8⟩) ∧
    Decodes 0b00111000011001011001000111001000011001#38
      (.wrdr (some 0b0110#4) ⟨false, .ssize, 0b10010#5, 0b00111#5, .reg 0b11001#5⟩) ∧
    Decodes 0b00111001011000011001000111001110000101#38
      (.wrdl (some 0b0110#4) ⟨false, .two, 0b10010#5, 0b00111#5, .imm 0b10000101#8⟩) ∧
    Decodes 0b00111010011010101001000111000000011001#38
      (.wrxxx 0b00110#5 false ⟨true, .four, 0b10010#5, 0b00111#5, .reg 0b11001#5⟩) ∧
    Decodes 0b00111100000000111001000111000110000101#38
      (.wrip none ⟨false, .dsize, 0b10010#5, 0b00111#5, .imm 0b10000101#8⟩) ∧
    Decodes 0b00111101011001001001000111001000011001#38
      (.wrdlip (some 0b0110#4) ⟨false, .asize, 0b10010#5, 0b00111#5, .reg 0b11001#5⟩) ∧
    Decodes 0b00111110011001011001000111001110000101#38
      (.chks (some 0b0110#4) ⟨false, .ssize, 0b10010#5, 0b00111#5, .imm 0b10000101#8⟩) ∧
    Decodes 0b00111111000000011001000111000000011001#38
      (.wrdh none ⟨false, .two, 0b10010#5, 0b00111#5, .reg 0b11001#5⟩) := by
  decide

/-- Words of the SpecOps (30_encoding.md R195, R196), bit by bit. -/
theorem test_decode_specOp :
    Decodes 0b10100101011000010110110110100010110011#38
      (.brcond 0b10#2 ⟨0b10110#5, .two, 0b01101#5, 0b10110100010110011#17⟩) ∧
    Decodes 0b10101001011000100110110110100010110011#38
      (.lddha ⟨0b10110#5, .four, 0b01101#5, 0b10110100010110011#17⟩) ∧
    Decodes 0b10101011011000110110110110100010110011#38
      (.lddhab ⟨0b10110#5, .dsize, 0b01101#5, 0b10110100010110011#17⟩) ∧
    Decodes 0b10101101011000000110110110100010110011#38
      (.ldaha ⟨0b10110#5, .one, 0b01101#5, 0b10110100010110011#17⟩) ∧
    Decodes 0b10101111011000010110110110100010110011#38
      (.ldahab ⟨0b10110#5, .two, 0b01101#5, 0b10110100010110011#17⟩) ∧
    Decodes 0b10110001011000100110110110100010110011#38
      (.ldk ⟨0b10110#5, .four, 0b01101#5, 0b10110100010110011#17⟩) ∧
    Decodes 0b10110011011000110110110110100010110011#38
      (.fpop ⟨0b10110#5, .dsize, 0b01101#5, 0b10110100010110011#17⟩) ∧
    Decodes 0b10110101011000000110110110100010110011#38
      (.ldkd ⟨0b10110#5, .one, 0b01101#5, 0b10110100010110011#17⟩) ∧
    Decodes 0b10110111011000010110110110100010110011#38
      (.fpope ⟨0b10110#5, .two, 0b01101#5, 0b10110100010110011#17⟩) ∧
    Decodes 0b10111011011000100110110110100010110011#38
      (.fault 0b01#2 ⟨0b10110#5, .four, 0b01101#5, 0b10110100010110011#17⟩) := by
  decide

/-- Words of the LIMMOp (30_encoding.md R205), bit by bit. -/
theorem test_decode_limm :
    Decodes 0b11100000000000101110110000000000000011#38
      (.limm 0b1101#4 0b10000000000010110000000000000011#32) := by
  decide

/-- Words of the reserved encodings (30_encoding.md R162, 41_regops.md R337), bit by bit. -/
theorem test_decode_reserved :
    Decodes 0b10010000000000000000000000000000000011#38
      (.noFormat 0b10000000000000000000000000000000011#35) ∧
    Decodes 0b00110111011001111001000111111011111111#38
      (.unassigned 0b1011001111001000111111011111111#31) := by
  decide

/-- The words a decoder refuses: V75, V54, V102, V109, V135, V111. -/
theorem test_decode_refused :
    Refuses 0x0001800000#38 .dsz ∧ Refuses 0x0800003003#38 .byteSize ∧ Refuses 0x101E90F00F#38 .seg ∧
      Refuses 0x132A30F40F#38 .dsz ∧ Refuses 0x140E1E300F#38 .dsz ∧ Refuses 0x132AD2F40F#38 .mmReg := by
  decide

/-- DSz 00 of LDM and CDAF with Seg 0111: the condition of the row comes before the segment code (30_encoding.md R216). -/
theorem test_decode_dsz_before_seg :
    Refuses 0x131E30F40F#38 .dsz ∧ Refuses 0x141E1E300F#38 .dsz ∧ Refuses 0x131E70F40F#38 .seg := by
  decide

/-- A word of the table's numbering with bits above an Op's 38 (30_encoding.md R216). -/
theorem test_decode_table_word : decodeTableWord 40 (0x3123505678 + 2 ^ 39) = some (.limm 8#4 0x12345678#32) := by
  decide

/-- An assembler name is encoded as the Op it stands for: the words of V10 with Dest and Src1 EAX, V31 and V19. -/
theorem test_encode_alias :
    encode (.inc .four 1#5 1#5) = 0x0018821301#38 ∧ encode (.mov .four 9#5 (.reg 3#5)) = 0x008092F003#38 ∧
      encode (.dec .four 1#5 1#5) = 0x0298821301#38 := by
  decide

/-! ### One step -/

/-- The start state of a vector: reset with these registers and this memory. -/
def start (regs : List (Fin 24 × Word)) (mem : Memory) : State :=
  { State.reset with regs := regs.foldl (fun v p => v.set p.1 p.2) (Vector.replicate 24 0), mem := mem }

/-- A flag record from OF, CF, ZF, SF, PF, AF. -/
def fl (of cf zf sf pf af : Bool) : Flags := ⟨of, cf, zf, sf, pf, af, false, false⟩

/-- Memory of some bytes from an address on. -/
def bytes (a : Nat) (l : List Byte) : Memory := l.mapIdx fun i b => (a + i, b)

/-- What a step that places and runs `w` answers. -/
def run1 (w : Nat) (s : State) : Host.Outcome State Fault Refusal := step (s.withFetchWord 38 w)

/-- The step goes on and a part of the next state is this. -/
abbrev Gives {α : Type} (w : Nat) (s : State) (get : State → α) (v : α) : Prop :=
  (match run1 w s with
    | .next t => some (get t)
    | _ => none) = some v

/-- The step faults. -/
abbrev Faults (w : Nat) (s : State) (f : Fault) : Prop :=
  (match run1 w s with
    | .fault g => some g
    | _ => none) = some f

/-- The step is refused. -/
abbrev IsRefused (w : Nat) (s : State) (r : Refusal) : Prop :=
  (match run1 w s with
    | .refused q => some q
    | _ => none) = some r

/-- The default status groups (10_state.md R42). -/
theorem test_ext_groups :
    selected Config.defaultExtGroups 0b0111#4 = [.of, .sf, .zf, .af, .pf, .cf] ∧
      selected Config.defaultExtGroups 0b1000#4 = [.ezf, .ecf] := by
  decide

/-- The access masks of SR0, SR13 and SR21 from their tables (10_state.md R50, R57, R60). -/
theorem test_sr_masks :
    srStoreMask .sr0 = 0x0F40C000#32 ∧ srActionMask .sr0 = 0x20BF0000#32 ∧ srStoreMask .sr13 = 0xFFFFF7FF#32 ∧
      srActionMask .sr13 = 0x00000800#32 ∧ srReservedMask .sr21 = 0xFE007FE1#32 := by
  decide

/-- V1, V3. -/
theorem test_limm :
    Gives 0x3123505678 (start [] []) (fun t => (getSlot t 8, t.pc)) (0x12345678, 1) ∧
      Gives 0x3DEADFBEEF (start [] []) (fun t => (t.regs, t.pc)) (State.reset.regs, 1) := by
  decide

/-- V8. -/
theorem test_add_overflow :
    Gives 0x001C800208 (start [(0, 0x7FFFFFFF), (8, 1)] []) (fun t => (getSlot t 0, t.flags))
      (0x80000000, fl true false false true true true) := by
  decide

/-- V11, V13. -/
theorem test_add_high_byte :
    Gives 0x00000841FF (start [(0, 0x12340105)] []) (fun t => getSlot t 0) 0x12340005 ∧
      Gives 0x00001EF101 (start [(11, 0x0000FF00)] []) (fun t => getSlot t 11) 0 := by
  decide

/-- V10: the word of `INC ECX`. -/
theorem test_inc :
    Gives 0x0018821301 (start [(1, 0xFFFFFFFF)] []) (fun t => (getSlot t 1, t.flags))
      (0, fl false false true false true true) := by
  decide

/-- V15. -/
theorem test_add_environment :
    Gives 0x0000C00018
      { start [(0, 0x00010001), (3, 0xFFFFFFFF)] [] with env := { Config.defaultEnv with dsize := .two, reg := 3 } }
      (fun t => getSlot t 0) 0x00010000 := by
  decide

/-- V27. -/
theorem test_adc :
    Gives 0x011C84220F { start [(2, 0xFFFFFFFF)] [] with flags := fl false true false false false false }
      (fun t => (getSlot t 2, t.flags)) (0, fl false true true false true true) := by
  decide

/-- V30. -/
theorem test_sbb :
    Gives 0x019C800203
      { start [(0, 5), (3, 0xFFFFFFFF)] [] with flags := fl false true false false false false }
      (fun t => (getSlot t 0, t.flags)) (5, fl false true false false true true) := by
  decide

/-- V20. -/
theorem test_sub_byte :
    Gives 0x029C000203 (start [(0, 0x80), (3, 1)] []) (fun t => (getSlot t 0, t.flags))
      (0x7F, fl true false false false false true) := by
  decide

/-- V24. -/
theorem test_cmp :
    Gives 0x039C840203 (start [(0, 9), (3, 1), (2, 0x77)] []) (fun t => (getSlot t 2, t.flags))
      (0x77, fl false false false false false false) := by
  decide

/-- V32 but AF, which is free. -/
theorem test_or :
    Gives 0x009C800380 (start [] []) (fun t => (getSlot t 0, t.flags.cf, t.flags.of, t.flags.sf, t.flags.zf, t.flags.pf))
      (0xFFFFFF80, false, false, true, false, false) := by
  decide

/-- V33, V37. -/
theorem test_and_xor :
    Gives 0x020040010F (start [(0, 0x1234ABCD)] []) (fun t => getSlot t 0) 0x1234000D ∧
      Gives 0x03000E7001 (start [(3, 0x0000AA00), (1, 0x000000FF)] []) (fun t => getSlot t 3) 0x00005500 := by
  decide

/-- V72, V73, V74. -/
theorem test_arith_refused :
    IsRefused 0x0040800000 (start [] []) (.type0 0) ∧ IsRefused 0x0002800000 (start [] []) (.rxSet 0) ∧
      IsRefused 0x0020800200 (start [] []) (.flagsUnknown 0) := by
  decide

/-- V39, V40, V43. -/
theorem test_sll_srl :
    Gives 0x0400000109 (start [(0, 0x123456FF)] []) (fun t => getSlot t 0) 0x12345600 ∧
      Gives 0x0400800120 (start [(0, 0x12345678)] []) (fun t => getSlot t 0) 0x12345678 ∧
      Gives 0x0480800001 (start [(0, 0x80000000), (1, 0xFFFFFFFF)] []) (fun t => getSlot t 0) 1 := by
  decide

/-- V45, V46. -/
theorem test_sra :
    Gives 0x068040011F (start [(0, 0x00018000)] []) (fun t => getSlot t 0) 0x0001FFFF ∧
      Gives 0x0680000101 (start [(0, 0x00000081)] []) (fun t => getSlot t 0) 0x000000C0 := by
  decide

/-- V80 and its kind run, under `regop_fn`, with a free result: the registers that are no destination keep theirs. -/
theorem test_free_function :
    Gives 0x0600800101 (start [(0, 1), (1, 7)] []) (fun t => (getSlot t 1, t.draws, t.pc)) (7, 1, 1) ∧
      IsRefused 0x0600800101
        { start [] [] with params := { Config.defaultParams with regopFn := .none } } (.noSemantics 0) := by
  decide

/-- V49, V50. -/
theorem test_sext8 :
    Gives 0x0840803003 (start [(3, 0x123456F0)] []) (fun t => getSlot t 0) 0xFFFFFFF0 ∧
      Gives 0x0840403003 (start [(0, 0xAAAAAAAA), (3, 0x123456F0)] []) (fun t => getSlot t 0) 0xAAAAFFF0 := by
  decide

/-- V48, V51, V52. -/
theorem test_extensions :
    Gives 0x0800803003 (start [(3, 0x123456F0)] []) (fun t => getSlot t 0) 0xF0 ∧
      Gives 0x0880822002 (start [(2, 0xFFFF8001)] []) (fun t => getSlot t 1) 0x8001 ∧
      Gives 0x08C0822002 (start [(2, 0x00008001)] []) (fun t => getSlot t 1) 0xFFFF8001 := by
  decide

/-- V55, V56. -/
theorem test_bswap :
    Gives 0x0CC0800000 (start [(0, 0x11223344)] []) (fun t => getSlot t 0) 0x44332211 ∧
      IsRefused 0x0CC0400000 (start [] []) (.bswapSize 0) := by
  decide

/-- V59, V62. -/
theorem test_movcc :
    Gives 0x09D4800003 (start [(0, 1), (3, 9)] []) (fun t => getSlot t 0) 9 ∧
      Gives 0x09C8400003
        { start [(0, 0xAAAA0001), (3, 0x12345678)] [] with flags := fl false true false false false false }
        (fun t => getSlot t 0) 0xAAAA5678 := by
  decide

/-- V64, V65. -/
theorem test_movcc_refused :
    IsRefused 0x0990800003 (start [] []) (.emuFlags 0) ∧ IsRefused 0x09D0801003 (start [] []) (.operandRole 0) := by
  decide

/-- V66, V69, V70. -/
theorem test_special_registers :
    Gives 0x0E949E8008 (start [(8, 0x300)] []) (fun t => t.sr.sr5) 0x300 ∧
      IsRefused 0x0C1880F00F (start [] []) (.unknownSR 0) ∧ IsRefused 0x0C1440F00F (start [] []) (.srSize 0) := by
  decide

/-- V67: all 32 bits of SR5 are stored, whatever the free value. -/
theorem test_read_sr5 (d : Word) :
    srReadValue { State.reset with sr := { State.reset.sr with sr5 := 0x300 } } .sr5 d = 0x300 := by
  have h : srReadMask .sr5 = 0xFFFFFFFF#32 := by decide
  simp [srReadValue, h, SpecialRegs.get]

/-- A write of SR29 with bits 0, 2 and 22 acts on the numeric-processor state, and one of 0 asserts the hyper flag and
fills the upper half with ones (10_state.md R66). -/
theorem test_write_sr29 :
    Gives 0x0EF49E8008 { start [(8, 0x00400005)] [] with np := ⟨true, false, 0xFFFF1234⟩ } (fun t => (t.sr.sr29, t.np))
        (0x00400005, ⟨false, false, 0x00001234⟩) ∧
      Gives 0x0EF49E8008 { start [] [] with np := ⟨true, false, 0x00001234⟩ } (fun t => (t.sr.sr29, t.np))
        (0, ⟨true, true, 0xFFFF1234⟩) := by
  decide

/-- V87, V88. -/
theorem test_ld :
    Gives 0x102A90308F (start [(3, 0x1000)] (bytes 0x1008 [0x78, 0x56, 0x34, 0x12])) (fun t => getSlot t 8) 0x12345678 ∧
      Gives 0x102A08301F (start [(3, 0x1000), (0, 0x11223344)] (bytes 0x1000 [0xAA, 0xBB])) (fun t => getSlot t 0)
        0x1122BB44 := by
  decide

/-- V96, V98, V95. -/
theorem test_ld_address :
    Gives 0x102890310F
        { start [(3, 0x1FFF8)] (bytes 8 [7, 0, 0, 0]) with env := { Config.defaultEnv with asize := .two } }
        (fun t => getSlot t 8) 7 ∧
      Gives 0x100E90300F
        { start [(3, 0x20)] (bytes 0x10020 [5, 0, 0, 0]) with segs := { State.reset.segs with ds := 0x10000 } }
        (fun t => getSlot t 8) 5 ∧
      Gives 0x10AA903006 (start [(3, 0x1000), (6, 2)] (bytes 0x1008 [9, 0, 0, 0])) (fun t => getSlot t 8) 9 := by
  decide

/-- V101, V103, V118. -/
theorem test_access_stops :
    Faults 0x102A90300F (start [(3, 0xFFE)] (bytes 0xFFE [1, 2])) (.stuck 0x1000 0) ∧
      IsRefused 0x102E90F00F (start [] []) (.specialMemory 0) ∧
      Faults 0x182A80F7FF (start [(0, 0x11223344)] (bytes 0x7F [0, 0])) (.stuck 0x81 0) := by
  decide

/-- V106. -/
theorem test_ldstl :
    Gives 0x162A90308F (start [(3, 0x1000)] (bytes 0x1008 [0x78, 0x56, 0x34, 0x12])) (fun t => (getSlot t 8, t.locks))
      (0x12345678, [⟨.ls, 0x1008, 4⟩]) := by
  decide

/-- V107, V110, V108. -/
theorem test_ldm :
    Gives 0x132AF0F40F (start [] (bytes 0x40 [1, 2, 3, 4, 5, 6, 7, 8])) (fun t => t.mm[0]) 0x0807060504030201 ∧
      Gives 0x132AC0F40F
        { start [] (bytes 0x40 [1, 2, 3, 4, 5, 6, 7, 8]) with env := { Config.defaultEnv with reg := 5 } }
        (fun t => t.mm[5]) 0x0807060504030201 ∧
      IsRefused 0x132AB0F40F (start [] []) (.mmxPartialLoad 0) := by
  decide

/-- V112. -/
theorem test_ldmstl :
    Gives 0x172AFEF40F (start [] (bytes 0x40 [1, 2, 3, 4, 5, 6, 7, 8])) (fun t => (t.mm[7], t.locks))
      (0x0807060504030201, [⟨.ls, 0x40, 8⟩]) := by
  decide

/-- V113, V115. -/
theorem test_st :
    Gives 0x182A80300F (start [(0, 0x12345678), (3, 0x1000)] (bytes 0x1000 [0, 0, 0, 0])) (fun t => t.mem)
        (bytes 0x1000 [0x78, 0x56, 0x34, 0x12]) ∧
      Gives 0x182A08F20F (start [(0, 0xAABBCCDD)] (bytes 0x20 [0, 0])) (fun t => t.mem) (bytes 0x20 [0xCC, 0]) := by
  decide

/-- V121, V120. -/
theorem test_stupd :
    Gives 0x1A0A884FCF (start [(4, 0x2000)] (bytes 0x1FFC [0, 0, 0, 0])) (fun t => (getSlot t 4, t.mem))
        (0x1FFC, bytes 0x1FFC [0, 0x20, 0, 0]) ∧
      Gives 0x1A09404FEF
        { start [(0, 0xCAFEBABE), (4, 0xABCD0000)] (bytes 0xFFFE [0, 0]) with
          env := { Config.defaultEnv with ssize := .two } }
        (fun t => (getSlot t 4, t.mem)) (0xABCDFFFE, bytes 0xFFFE [0xBE, 0xBA]) := by
  decide

/-- V124. -/
theorem test_stm :
    Gives 0x1B2A76F40F
      { start [] (bytes 0x40 [0, 0, 0]) with mm := (Vector.replicate 8 0).set 3 0x1122334455667788 }
      (fun t => t.mem) (bytes 0x40 [0x88, 0x77, 0]) := by
  decide

/-- V127, V128, V131. -/
theorem test_lea :
    Gives 0x1F8E923106 (start [(3, 0x100), (6, 3)] []) (fun t => getSlot t 9) 0x11C ∧
      Gives 0x1F0E42300F (start [(3, 0x12345678), (1, 0xFFFFFFFF)] []) (fun t => getSlot t 1) 0xFFFF5678 ∧
      Gives 0x1FCE923806 (start [(3, 0xFFFFFFFF), (6, 0x20000000)] []) (fun t => getSlot t 9) 0xFFFFFF7F := by
  decide

/-- A state whose segment DS denies every 4-byte read and CS every 4-byte execute, and page 1 of which faults on read. -/
def denying : State :=
  { start [(3, 0x1000)] [] with
    params := { Config.defaultParams with
      segDeny := [⟨.ds, 0, 0xFFFFFFFF, 4, .read⟩, ⟨.cs, 0, 0xFFFFFFFF, 4, .execute⟩]
      pages := [⟨0x1000, 0x1FFF, .read, none⟩] } }

/-- V133, V134, V137 with the check that admits and the one that rejects the access, and a page fault. -/
theorem test_address_checks :
    Gives 0x1C0E9E300F (start [(3, 0x1000)] []) (fun t => t.pc) 1 ∧
      Gives 0x140E9E300F (start [(3, 0x1000)] []) (fun t => t.pc) 1 ∧
      Gives 0x1D069E300F (start [(3, 0x1000)] []) (fun t => t.pc) 1 ∧
      Faults 0x1C0E9E300F denying (.segFault .ds 0x1000 0) ∧ Faults 0x1D069E300F denying (.segFault .cs 0x1000 0) ∧
      Faults 0x1C2A9E300F denying (.pageFault 0x1000 .read 0) := by
  decide

/-- A load with store check faults where only a store is denied, by `SegCheck` and by `Translate`, and its locked form
too; the plain load of the same bytes completes (20_memory.md R142, 40_ldstops.md R226, R230). -/
theorem test_store_check :
    let s (deny : List SegDeny) (pages : List PageEntry) : State :=
      { start [(3, 0x1000)] (bytes 0x1000 [1, 2, 3, 4]) with
        params := { Config.defaultParams with segDeny := deny, pages := pages } }
    Faults 0x122A90300F (s [⟨.ls, 0x1000, 0x1000, 4, .write⟩] []) (.segFault .ls 0x1000 0) ∧
      Faults 0x162A90300F (s [] [⟨0x1003, 0x1003, .write, none⟩]) (.pageFault 0x1000 .readwrite 0) ∧
      Gives 0x102A90300F (s [⟨.ls, 0x1000, 0x1000, 4, .write⟩] [⟨0x1003, 0x1003, .write, none⟩]) (fun t => getSlot t 8)
        0x04030201 := by
  decide

/-- The bytes of an access are looked at one by one: a first byte outside the launch memory before a page fault of the
second (20_memory.md R140). -/
theorem test_byte_order_of_stops :
    Faults 0x102A90300F
      { start [(3, 0x1000)] [] with
        params := { Config.defaultParams with pages := [⟨0x1001, 0x1001, .read, none⟩] } } (.stuck 0x1000 0) ∧
    Faults 0x102A90300F
      { start [(3, 0x1000)] (bytes 0x1000 [1]) with
        params := { Config.defaultParams with pages := [⟨0x1001, 0x1001, .read, none⟩] } } (.pageFault 0x1000 .read 0) := by
  decide

/-- V138, V139. -/
theorem test_tia_ldpf :
    Gives 0x1E2A9E300F (start [(3, 0x1000)] []) (fun t => t.pc) 1 ∧
      Gives 0x152A9E300F (start [(3, 0x1000)] []) (fun t => t.pc) 1 := by
  decide

/-- V141, V142, V147, V149. -/
theorem test_brcond :
    Gives 0x2850000000 { State.reset with flags := fl false false true false false false } (fun t => t.br) true ∧
      Gives 0x2854000000 { State.reset with flags := fl false false true false false false } (fun t => t.br) false ∧
      Gives 0x287C000000 { State.reset with flags := fl true false false true false false } (fun t => t.br) true ∧
      Gives 0x29C8000000 { State.reset with flags := fl false true false false false false } (fun t => t.br) true := by
  decide

/-- V150, V151. -/
theorem test_brcond_refused :
    IsRefused 0x2808000000 State.reset (.emuFlags 0) ∧ IsRefused 0x2828000000 State.reset (.stringCond 0) := by
  decide

/-- V154, V156. -/
theorem test_ldk :
    Gives 0x2C0091FFFF State.reset (fun t => getSlot t 8) 0xFFFFFFFF ∧ IsRefused 0x2C00500005 State.reset (.ldkSize 0) := by
  decide

/-- V165. -/
theorem test_fault : Faults 0x2F80000042 State.reset (.opFault 0x42 3 0) := by
  decide

/-- V76, V166, V85, V162. -/
theorem test_refused :
    IsRefused 0x0D80800000 State.reset (.illegal .regOpType 0) ∧
      IsRefused 0x2000000000 State.reset (.illegal .noFormat 0) ∧
      IsRefused 0x0F009E0000 State.reset (.noSemantics 0) ∧ IsRefused 0x2C80800000 State.reset (.floatingPoint 0) := by
  decide

/-! ### Every hypothesis of a statement can be met -/

/-- A state in which most Ops can run: eight bytes of memory at 0x1000, EBX = 0x1000, a program of one Op. -/
def ready : State :=
  { start [(0, 0x80000001), (3, 0x1000), (8, 0x11223344)] (bytes 0x1000 [1, 2, 3, 4, 5, 6, 7, 8]) with
    program := [0x3123505678#38], flags := fl true true false true false true }

/-- `ready` with Type[0] ignored, unsigned constants, `regop_fn` not taken and misaligned accesses refused. -/
def readyOther : State :=
  { ready with
    params := { Config.defaultParams with
      type0 := .ignore, regopFn := .none, misaligned := .refuse, imm8Signed := false, imm17Signed := false,
      disp8Signed := false, cc0Negates := false } }

/-- `LS:[EBX + t0*1 + 0] .4`. -/
def at0 : Address := ⟨.x1, .ls, .four, 0b0011#4, .disp8 0#8, 0b1111#4⟩

theorem witness_DecodeEncode :
    Instr.wellFormed (.inc .one 31#5 0#5) = true ∧ Instr.wellFormed (.rls true (some 15#4) (ops .one 31#5)) = true ∧
      Instr.wellFormed (.stm at0 .two 8#5) = true := by
  decide

theorem witness_EncodeDecode : Decodes 0x3123505678#38 (.limm 8#4 0x12345678#32) ∧ Decodes 0x2800000000#38
    (.brcond 0#2 ⟨0#5, .one, 0#5, 0#17⟩) := by
  decide

theorem witness_IgnoredBitsIgnored :
    0x0000800C88#38 &&& ~~~(ignoredBits 0x0000800008#38) = 0x0000800008#38 &&& ~~~(ignoredBits 0x0000800008#38) ∧
      0x0000800C88#38 ≠ 0x0000800008#38 := by
  decide

/-- A word of every format: FormatByTopBits and TypeCodes. -/
theorem witness_FormatByTopBits :
    Decodes 0x0000800008#38 (.add false none (ops .four 8#5)) ∧
      Decodes 0x0F009E0000#38 (.wrip none ⟨false, .four, 15#5, 0#5, .reg 0#5⟩) ∧
      Decodes 0x152A9E300F#38 (.ldpf at0 .four 15#5) ∧ Decodes 0x2E00000000#38 (.fault 0#2 ⟨0#5, .one, 0#5, 0#17⟩) ∧
      Decodes 0x2000000000#38 (.noFormat 0#35) ∧ Decodes 0x3000000000#38 (.limm 0#4 0#32) := by
  decide

theorem witness_ScaleFactors :
    Decodes 0x1F2A9E300F#38 (.lea at0 .four 15#5) ∧
      Decodes 0x1F6A9E300F#38 (.lea { at0 with isf := .x2 } .four 15#5) ∧
      Decodes 0x1FAA9E300F#38 (.lea { at0 with isf := .x4 } .four 15#5) ∧
      Decodes 0x1FEA9E300F#38 (.lea { at0 with isf := .x8 } .four 15#5) := by
  decide

/-- A word of each size of a RegOp, of each segment, of each address size, of each size of Tables 2.25 and 2.26, and of a
SpecOp. -/
theorem witness_FieldCodes :
    (0x0001800000#38).extractLsb' 36 2 = 0b00#2 ∧ (0x0001800000#38).extractLsb' 31 5 ≠ 0b11011#5 ∧
      (0x0001800000#38).extractLsb' 22 3 = 0b110#3 ∧ (0x0001C00000#38).extractLsb' 22 3 = 0b111#3 ∧
      [(0x0000000000#38, RegSize.one), (0x0000400000#38, .two), (0x0000800000#38, .four), (0x0000C00000#38, .dsize),
        (0x0001000000#38, .asize), (0x0001400000#38, .ssize)].all (fun p =>
          decode p.1 == .ok (.add false none (ops p.2 0#5)) && (regOperands (.add false none (ops p.2 0#5))).isSome) =
        true ∧
      [(0x1002803000#38, SegCode.es), (0x100E803000#38, .ds), (0x1022803000#38, .ts0), (0x1026803000#38, .ts1),
        (0x102E803000#38, .ms), (0x1032803000#38, .os 0#2), (0x103E803000#38, .os 3#2)].all (fun p =>
          decode p.1 == .ok (.ld ⟨.x1, p.2, .four, 3#4, .disp8 0#8, 0#4⟩ .four 0#5)) = true ∧
      [(0x1000003000#38, AddrSize.asize, IntSize.one), (0x1001403000#38, .ssize, .two), (0x1002803000#38, .four, .four),
        (0x1003C03000#38, .dsize, .dsize)].all (fun p =>
          decode p.1 == .ok (.ld ⟨.x1, .es, p.2.1, 3#4, .disp8 0#8, 0#4⟩ p.2.2 0#5)) = true ∧
      [(0x1102003000#38, FpSize.fpDSize), (0x1102403000#38, .two), (0x1102803000#38, .four),
        (0x1102C03000#38, .eight)].all (fun p =>
          decode p.1 == .ok (.ldf ⟨.x1, .es, .four, 3#4, .disp8 0#8, 0#4⟩ p.2 0#5)) = true ∧
      Decodes 0x2C00C00000#38 (.ldk ⟨0#5, .dsize, 0#5, 0#17⟩) := by
  decide

theorem witness_IllegalEncodings :
    ((0x0001800000#38).extractLsb' 36 2 = 0b00#2 ∧ (0x0001800000#38).extractLsb' 31 5 ≠ 0b11011#5 ∧
      (0x0001800000#38).extractLsb' 23 2 = 0b11#2) ∧
    ((0x0800003003#38).extractLsb' 36 2 = 0b00#2 ∧ (0x0800003003#38).extractLsb' 22 3 = 0b000#3 ∧
      (0x0800003003#38).extractLsb' 31 5 = 0b10000#5) ∧
    ((0x101E90F00F#38).extractLsb' 36 2 = 0b01#2 ∧ (0x101E90F00F#38).extractLsb' 26 4 = 0b0111#4) ∧
    ((0x101E10F00F#38).extractLsb' 26 4 = 0b0111#4 ∧ (0x101E10F00F#38).extractLsb' 22 2 = 0b00#2 ∧
      (0x101E10F00F#38).extractLsb' 32 4 = 0b0000#4) ∧
    ((0x132A30F40F#38).extractLsb' 36 2 = 0b01#2 ∧ (0x132A30F40F#38).extractLsb' 22 2 = 0b00#2 ∧
      (0x132A30F40F#38).extractLsb' 32 4 = 0b0011#4) ∧
    ((0x132AD2F40F#38).extractLsb' 36 2 = 0b01#2 ∧ (0x132AD2F40F#38).extractLsb' 26 4 ≠ 0b0111#4 ∧
      (0x132AD2F40F#38).extractLsb' 32 4 = 0b0011#4 ∧ (0x132AD2F40F#38).extractLsb' 22 2 ≠ 0b00#2 ∧ ((0x132AD2F40F#38).extractLsb' 17 5).toNat = 9 ∧
      ((0x132AEEF40F#38).extractLsb' 17 5).toNat = 23 ∧ decode 0x132AEEF40F#38 = .error .mmReg) := by
  decide

theorem witness_StepRunsDecodedOp :
    ready.program[ready.pc]? = some 0x3123505678#38 ∧ Decodes 0x3123505678#38 (.limm 8#4 0x12345678#32) ∧
      (step ready = .next (wr ready 8#5 .four 0x12345678).advance) ∧
      { ready with program := [0x0001800000#38] }.program[ready.pc]? = some 0x0001800000#38 ∧
      Refuses 0x0001800000#38 .dsz :=
  ⟨by decide, by decide, rfl, by decide, by decide⟩

theorem witness_FinalAtEndOfProgram :
    State.reset.pc = State.reset.program.length ∧
      { State.reset with pc := 1 }.program.length < { State.reset with pc := 1 }.pc := by
  decide

/-- `ready` meets the invariant, and its step goes on. -/
theorem witness_StepKeepsInvariant : State.Inv ready ∧ step ready = .next (wr ready 8#5 .four 0x12345678).advance :=
  ⟨⟨by decide, by decide, by decide, fun k => by cases k <;> decide, by decide, by decide, by decide⟩, rfl⟩

theorem witness_EveryOpAdvancesAndKeepsLaunch :
    exec (.limm 8#4 0x12345678) ready = .next (wr ready 8#5 .four 0x12345678).advance :=
  rfl

/-- Before the end of the program and at its end. -/
theorem witness_EveryRunEnds : ready.pc < ready.program.length ∧ State.reset.pc = State.reset.program.length := by
  decide

theorem witness_OneDestination :
    exec (.limm 8#4 5) ready = .next (wr ready 8#5 .four 5).advance ∧
      destOf (.limm 8#4 5) ready.env = some (8#5, .four) ∧ (9 : Fin 24) ≠ namedSlot ready.env 8#5 .four :=
  ⟨rfl, by decide, by decide⟩

/-- An Op that writes flags and one that writes none. -/
theorem witness_FlagWriters :
    (∃ t, exec (.add false (some 0b0001#4) (ops .four 0#5)) ready = .next t) ∧
      statusField (.add false (some 0b0001#4) (ops .four 0#5)) = some 0b0001#4 ∧
      FlagName.of ∉ selected ready.params.extGroups 0b0001#4 ∧ (∃ t, exec (.limm 8#4 5) ready = .next t) ∧
      statusField (.limm 8#4 5) = none :=
  ⟨⟨_, rfl⟩, by decide, by decide, ⟨_, rfl⟩, by decide⟩

theorem witness_OnlyStoresWriteMemory :
    (∃ t, exec (.ld at0 .four 8#5) ready = .next t) ∧ isStore (.ld at0 .four 8#5) = false :=
  ⟨⟨_, rfl⟩, by decide⟩

theorem witness_WritersOfTheOtherState :
    (∃ t, exec (.ld at0 .four 8#5) ready = .next t) ∧ writesMm (.ld at0 .four 8#5) = false ∧
      writesSr (.ld at0 .four 8#5) = false ∧ writesBr (.ld at0 .four 8#5) = false ∧
      isLocked (.ld at0 .four 8#5) = false :=
  ⟨⟨_, rfl⟩, by decide⟩

/-- One Op for each fault. -/
theorem witness_FaultSources :
    exec (.fault 3#2 ⟨0#5, .one, 0#5, 7#17⟩) denying = .fault (.opFault 7 3 0) ∧
      exec (.cda { at0 with seg := .ds } .four 0#5) denying = .fault (.segFault .ds 0x1000 0) ∧
      exec (.ld at0 .four 0#5) denying = .fault (.pageFault 0x1000 .read 0) ∧
      exec (.st at0 .four 0#5) denying = .fault (.stuck 0x1000 0) :=
  ⟨rfl, rfl, rfl, rfl⟩

/-- Names that are not t0, and for every clause over the numbers its boundary values (R36). -/
theorem witness_RegisterWrite :
    namedSlot ready.env 15#5 .one ≠ t0Slot ∧ namedSlot ready.env 31#5 .four ≠ t0Slot ∧
      (∀ n ∈ [0#5, 15#5, 23#5], n.toNat < 24) ∧
      (∀ n ∈ [0#5, 3#5, 8#5, 11#5, 16#5, 19#5], n.toNat ∈ [0, 1, 2, 3, 8, 9, 10, 11, 16, 17, 18, 19]) ∧
      ∀ n ∈ [4#5, 7#5, 12#5, 15#5, 20#5, 23#5], n.toNat ∈ [4, 5, 6, 7, 12, 13, 14, 15, 20, 21, 22, 23] := by
  decide

theorem witness_EnvironmentRegisters :
    24 ≤ (24#5).toNat ∧ (27#5).toNat ≤ 27 ∧ 28 ≤ (28#5).toNat ∧ 28 ≤ (31#5).toNat := by
  decide

/-- With a status field under `strict`, and without one with Type[0] ignored: AddAdcResults, SubSbbResults, CmpResults
and LogicResults. -/
theorem witness_ArithAdmitted :
    ArithAdmitted false (some 0b0111#4) (ops .four 8#5) ready ∧ ArithAdmitted true none (ops .one 8#5) readyOther :=
  ⟨⟨rfl, nofun, by rintro _ ⟨⟩; decide⟩, ⟨rfl, fun _ => rfl, nofun⟩⟩

theorem witness_IncDecResults :
    StatusAdmitted (some 0b0110#4) ready ∧ ready.params.extGroups = Config.defaultExtGroups :=
  ⟨by rintro _ ⟨⟩; decide, rfl⟩

theorem witness_MovResult : RegSize.four ≠ .one := by
  decide

theorem witness_ImmediateOperand : ready.params.imm8Signed = true ∧ readyOther.params.imm8Signed = false := by
  decide

theorem witness_ShiftResults :
    ShiftAdmitted false none (ops .one 8#5) ready ∧ ShiftAdmitted true none (ops .four 8#5) readyOther :=
  ⟨⟨rfl, nofun, rfl⟩, ⟨rfl, fun _ => rfl, rfl⟩⟩

/-- A shift, a 1-byte shift and an Op of another table, with `regop_fn` taken. -/
theorem witness_FreeFunctionOpsRun :
    ready.params.regopFn = .free ∧
      (regForm (.slc false none (ops .four 8#5)) = some ⟨.shift, false, false, ops .four 8#5⟩ ∧
        Type0Admitted false ready ∧ (ops .four 8#5).dsz ≠ .one) ∧
      (regForm (.rls false none (ops .one 8#5)) = some ⟨.shift, false, false, ops .one 8#5⟩ ∧
        (ops .one 8#5).dsz = .one) ∧
      regForm (.div1 none (ops .two 8#5)) = some ⟨.special, false, false, ops .two 8#5⟩ ∧ (ops .two 8#5).dsz ≠ .one :=
  ⟨rfl, ⟨rfl, nofun, by decide⟩, ⟨rfl, rfl⟩, rfl, by decide⟩

/-- With `regop_fn` not taken. -/
theorem witness_FreeFunctionOpsRefused :
    readyOther.params.regopFn = .none ∧
      (regForm (.slc true none (ops .four 8#5)) = some ⟨.shift, true, false, ops .four 8#5⟩ ∧
        Type0Admitted true readyOther ∧ (ops .four 8#5).dsz ≠ .one) ∧
      regForm (.daa none (ops .one 8#5)) = some ⟨.special, false, false, ops .one 8#5⟩ ∧ (ops .one 8#5).dsz = .one :=
  ⟨rfl, ⟨rfl, fun _ => rfl, by decide⟩, rfl, rfl⟩

theorem witness_ExtensionResults :
    SpecialAdmitted (none : Option Ext4).isSome (ops .two 0#5) ∧ (ops .two 0#5).src2 = .reg (ops .two 0#5).src1 :=
  ⟨⟨rfl, rfl, by decide⟩, rfl⟩

/-- The condition holds (OF), does not hold (ZF), is one on ECF, on EZF, and the first and the last string condition. -/
theorem witness_MovccResult :
    SpecialAdmitted false (ops .two 3#5) ∧ (ops .two 3#5).src1 = (ops .two 3#5).dest ∧
      Machine.cond ready 0b10000#5 = .ok true ∧ Machine.cond ready 0b10100#5 = .ok false ∧
      ((0b00011#5).extractLsb' 1 4).toNat = 1 ∧ ((0b00100#5).extractLsb' 1 4).toNat = 2 ∧
      ((0b00110#5).extractLsb' 1 4).toNat = 3 ∧ ((0b01111#5).extractLsb' 1 4).toNat = 7 :=
  ⟨⟨rfl, rfl, by decide⟩, rfl, rfl, rfl, by decide⟩

theorem witness_OperandRolesRefused :
    SpecialAdmitted (none : Option Ext4).isSome (ops .four 8#5) ∧
      (ops .four 8#5).src2 ≠ .reg (ops .four 8#5).src1 ∧ regSize ready.env (ops .four 8#5).dsz = .four ∧
      SpecialAdmitted false ⟨false, .two, 1#5, 0#5, .imm 0#8⟩ ∧ (0#5 : RegNum) ≠ 1#5 ∧
      (srOfNumber 29#5).isSome = true :=
  ⟨⟨rfl, rfl, by decide⟩, by decide, rfl, ⟨rfl, rfl, by decide⟩, by decide, rfl⟩

theorem witness_BswapResult :
    SpecialAdmitted (none : Option Ext4).isSome (ops .dsize 0#5) ∧ regSize ready.env (ops .dsize 0#5).dsz = .four ∧
      (ops .dsize 0#5).src2 = .reg (ops .dsize 0#5).src1 ∧ regSize ready.env (ops .two 0#5).dsz ≠ .four :=
  ⟨⟨rfl, rfl, by decide⟩, rfl, rfl, by decide⟩

/-- `ready` with Ext[1] selecting ECF and Ext[0] selecting EZF. -/
def readyGroups : State :=
  { ready with params := { Config.defaultParams with extGroups := ⟨[], [.of], [.zf, .ecf], [.ezf]⟩ } }

/-- RX = 1; Type[0] = 1 under `strict`; SS = 1 on a shift and on an Op of Table 2.34; Ext[3] = 1; a status field that
selects ECF, and one that selects EZF. -/
theorem witness_RegOpFormRefusals :
    regForm (.sub true none { ops .four 8#5 with rx := true }) =
        some ⟨.arithmetic, true, false, { ops .four 8#5 with rx := true }⟩ ∧
      (regForm (.sll true none (ops .four 8#5)) = some ⟨.shift, true, false, ops .four 8#5⟩ ∧
        ready.params.type0 = .strict) ∧
      (regForm (.sll false (some 0#4) (ops .four 8#5)) = some ⟨.shift, false, true, ops .four 8#5⟩ ∧
        Type0Admitted false ready) ∧
      regForm (.movcc 0#5 true (ops .four 8#5)) = some ⟨.special, false, true, ops .four 8#5⟩ ∧
      regForm (.cmp false (some 8#4) (ops .four 8#5)) = some ⟨.arithmetic, false, true, ops .four 8#5⟩ ∧
      (∃ ext, statusField (.cmp false (some 8#4) (ops .four 8#5)) = some ext ∧ ext.getLsbD 3 = true) ∧
      FlagName.ecf ∈ selected readyGroups.params.extGroups 0b0110#4 ∧
      FlagName.ezf ∈ selected readyGroups.params.extGroups 0b0001#4 :=
  ⟨rfl, ⟨rfl, rfl⟩, ⟨rfl, nofun⟩, rfl, rfl, ⟨_, rfl, rfl⟩, by decide, by decide⟩

theorem witness_RdxxxResult :
    SpecialAdmitted false (ops .asize 8#5) ∧ srOfNumber 0#5 = some .sr0 ∧ srOfNumber 5#5 = some .sr5 ∧
      regSize ready.env (ops .asize 8#5).dsz = .four :=
  ⟨⟨rfl, rfl, by decide⟩, rfl, rfl, rfl⟩

/-- EAX = 0x80000001 sets no reserved and no action bit of SR5, nor of SR29. -/
theorem witness_WrxxxResult :
    SpecialAdmitted false (ops .four 0#5) ∧ srOfNumber 5#5 = some .sr5 ∧
      (ops .four 0#5).src2 = .reg (ops .four 0#5).src1 ∧ reg32 ready (ops .four 0#5).src1 &&& srReservedMask .sr5 = 0 ∧
      reg32 ready (ops .four 0#5).src1 &&& srActionMask .sr5 = 0 ∧ srOfNumber 29#5 = some .sr29 ∧
      reg32 ready (ops .four 0#5).src1 &&& srReservedMask .sr29 = 0 ∧
      reg32 ready (ops .four 0#5).src1 &&& srActionMask .sr29 = 0 :=
  ⟨⟨rfl, rfl, by decide⟩, by decide⟩

/-- EAX sets reserved bits of SR21, and t1 sets action bits and no reserved bit of SR0. -/
theorem witness_SpecialRegisterRefusals :
    SpecialAdmitted false (ops .four 0#5) ∧ (6#5).toNat = 6 ∧ (31#5).toNat = 31 ∧
      regSize ready.env (ops .two 0#5).dsz ≠ .four ∧ srOfNumber 21#5 = some .sr21 ∧ srOfNumber 0#5 = some .sr0 ∧
      reg32 ready (ops .four 0#5).src1 &&& srReservedMask .sr21 ≠ 0 ∧
      reg32 ready 8#5 &&& srReservedMask .sr0 = 0 ∧ reg32 ready 8#5 &&& srActionMask .sr0 ≠ 0 :=
  ⟨⟨rfl, rfl, by decide⟩, by decide⟩

theorem witness_SpecialRegisterReadBack :
    (∃ t, exec (.wrxxx 5#5 false (ops .four 0#5)) ready = .next t ∧ regSize t.env (ops .four 8#5).dsz = .four) ∧
      srOfNumber 5#5 = some .sr5 ∧ SR.sr5 ≠ .sr17 ∧ SR.sr5 ≠ .sr18 ∧ SpecialAdmitted false (ops .four 8#5) :=
  ⟨⟨_, rfl, rfl⟩, rfl, by decide, by decide, ⟨rfl, rfl, by decide⟩⟩

/-- Every access to the eight bytes at EBX is admitted: IntegerLoads, MmxLoads, IntegerStores, MmxStore. -/
theorem witness_Accessible :
    Accessible ready .ls (effAddr ready at0) 4 .read ∧ Accessible ready .ls (effAddr ready at0) 4 .readwrite ∧
      Accessible ready .ls (effAddr ready at0) 4 .write ∧ Accessible ready .ls (effAddr ready at0) 8 .read ∧
      Accessible ready .ls (effAddr ready at0) 8 .readwrite ∧ Accessible ready .ls (effAddr ready at0) 2 .write ∧
      segOf ready.env at0.seg = .ls ∧ (intSize ready.env .dsize).bytes = 4 ∧ mmSlotOf ready.env 8#5 = some .t1 ∧
      ready.params.pages = [] ∧ ready.params.segDeny = [] :=
  ⟨⟨by decide, rfl, rfl, by decide, nofun, fun _ _ => nofun⟩,
    ⟨by decide, rfl, rfl, by decide, fun _ => rfl, fun _ _ _ => nofun⟩,
    ⟨by decide, rfl, rfl, by decide, nofun, fun _ _ => nofun⟩, ⟨by decide, rfl, rfl, by decide, nofun, fun _ _ => nofun⟩,
    ⟨by decide, rfl, rfl, by decide, fun _ => rfl, fun _ _ _ => nofun⟩,
    ⟨by decide, rfl, rfl, by decide, nofun, fun _ _ => nofun⟩, rfl, rfl, rfl, rfl, rfl⟩

/-- The defaults, and the bytes of a 4-byte store through LS and of accesses through DS, all in memory. -/
theorem witness_StoreThenLoad :
    ready.params.misaligned = .split ∧ ready.params.segDeny = [] ∧ ready.params.pages = [] ∧
      segOf ready.env at0.seg ≠ .ms ∧ (intSize ready.env .four).bytes = 4 ∧
      (∀ i, i < 4 → (ready.mem.lookup
        (segBase ready (segOf ready.env at0.seg) + effAddr ready at0 + BitVec.ofNat 32 i).toNat).isSome = true) ∧
      Seg.ds ≠ .ms ∧ ∀ i, i < 8 →
        (ready.mem.lookup (segBase ready .ds + effAddr ready at0 + BitVec.ofNat 32 i).toNat).isSome = true := by
  decide

theorem witness_MmxRegisterNumbers :
    24 ≤ (24#5).toNat ∧ (3#5).toNat ≤ 3 ∧ 4 ≤ (4#5).toNat ∧ (7#5).toNat ≤ 7 ∧ (8#5).toNat = 8 ∧ 9 ≤ (9#5).toNat ∧
      (23#5).toNat ≤ 23 := by
  decide

/-- `ready` whose segment DS denies every 4-byte write, and where no write reaches the address 0x1001. -/
def denyingStores : State :=
  { ready with
    params := { Config.defaultParams with
      segDeny := [⟨.ds, 0, 0xFFFFFFFF, 4, .write⟩], pages := [⟨0x1001, 0x1001, .write, none⟩] } }

/-- The special memory, a refused misalignment, and `SegCheck`. -/
theorem witness_AccessStops_checks :
    dataAccess (.ld { at0 with seg := .ms } .four 0#5) ready = some (.ms, 0x1000, 4, .read) ∧
      dataAccess (.st { at0 with disp := .disp8 1 } .four 0#5) readyOther = some (.ls, 0x1001, 4, .write) ∧
      alignedOk readyOther 0x1001 4 = false ∧ alignedOk readyOther 0x1008 2 = true ∧
      dataAccess (.ld { at0 with seg := .ds } .four 0#5) denying = some (.ds, 0x1000, 4, .read) ∧
      alignedOk denying 0x1000 4 = true ∧ segCheck denying .ds 0x1000 4 .read = false :=
  ⟨rfl, rfl, rfl, rfl, rfl, rfl, rfl⟩

/-- A page fault, a store that is stuck at its last byte, the first after the launch memory, and a load with store check
that `SegCheck` denies the store of, and one whose second byte a store could not reach. -/
theorem witness_AccessStops_bytes :
    (dataAccess (.ld at0 .four 0#5) denying = some (.ls, 0x1000, 4, .read) ∧
      segCheck denying .ls 0x1000 4 .read = true ∧ byteAddr denying .ls 0x1000 .read 0 = none) ∧
    dataAccess (.st { at0 with disp := .disp8 5 } .four 0#5) ready = some (.ls, 0x1005, 4, .write) ∧
      (∀ m, m < 3 → byteAt ready .ls 0x1005 .write m ≠ none) ∧ byteAddr ready .ls 0x1005 .write 3 = some 0x1008 ∧
      ready.mem.lookup 0x1008 = none ∧
    dataAccess (.ldst at0 .four 0#5) denyingStores = some (.ls, 0x1000, 4, .readwrite) ∧
      segCheck denyingStores .ls 0x1000 4 .write = true ∧ byteAt denyingStores .ls 0x1000 .readwrite 0 ≠ none ∧
      byteAddr denyingStores .ls 0x1000 .write 0 ≠ none ∧ byteAddr denyingStores .ls 0x1000 .write 1 = none ∧
      byteAddr denyingStores .ls 0x1000 .readwrite 1 ≠ none ∧
    dataAccess (.ldstl { at0 with seg := .ds } .four 0#5) denyingStores = some (.ds, 0x1000, 4, .readwrite) ∧
      segCheck denyingStores .ds 0x1000 4 .readwrite = true ∧ segCheck denyingStores .ds 0x1000 4 .write = false :=
  ⟨⟨rfl, rfl, rfl⟩, rfl, by decide, by decide, by decide, rfl, by decide, by decide, by decide, by decide, by decide, rfl,
    by decide, by decide⟩

theorem witness_AddressChecksComplete :
    segOf ready.env at0.seg ≠ .ms ∧ segCheck ready .ls (effAddr ready at0) 4 .read = true ∧
      segCheck ready .ls (effAddr ready at0) 8 .read = true ∧ segCheck ready .ls (effAddr ready at0) 4 .execute = true ∧
      ∀ i, i < 8 → byteAddr ready (segOf ready.env at0.seg) (effAddr ready at0) .read i ≠ none := by
  decide

theorem witness_AddressCheckStops :
    segOf denying.env { at0 with seg := .ms }.seg = .ms ∧ segOf denying.env SegCode.ds = .ds ∧
      segCheck denying .ds (effAddr denying at0) 4 .read = false ∧
      segCheck denying .cs (effAddr denying at0) 4 .execute = false ∧
      segCheck denying .ls (effAddr denying at0) 4 .read = true ∧
      byteAddr denying .ls (effAddr denying at0) .read 0 = none := by
  decide

/-- Each scale, each address size, each displacement. -/
theorem witness_EffectiveAddress :
    (at0.isf, 1) ∈ [(Scale.x1, 1), (.x2, 2), (.x4, 4), (.x8, 8)] ∧
      (addrSize ready.env at0.asz, 2 ^ 32) ∈ [(EnvSize.two, 2 ^ 16), (.four, 2 ^ 32)] ∧
      (addrSize { ready.env with asize := .two } .asize, 2 ^ 16) ∈ [(EnvSize.two, 2 ^ 16), (.four, 2 ^ 32)] ∧
      ready.params.disp8Signed = true ∧ readyOther.params.disp8Signed = false := by
  decide

/-- A code of every admitted condition, and the first and last of the refused ones. -/
theorem witness_BranchConditions :
    (0b00001#5).extractLsb' 1 4 = 0b0000#4 ∧ (0b10000#5).extractLsb' 1 4 = 0b1000#4 ∧
      (0b11111#5).extractLsb' 1 4 = 0b1111#4 ∧ ((0b00010#5).extractLsb' 1 4).toNat = 1 ∧
      ((0b00101#5).extractLsb' 1 4).toNat = 2 ∧ ((0b00110#5).extractLsb' 1 4).toNat = 3 ∧
      ((0b01111#5).extractLsb' 1 4).toNat = 7 := by
  decide

theorem witness_CompareAndBranch :
    ready.params.extGroups = Config.defaultExtGroups ∧ ready.params.cc0Negates = true ∧
      (ops .four 8#5).rx = false ∧ Type0Admitted false ready :=
  ⟨rfl, rfl, rfl, nofun⟩

theorem witness_LoadConstant :
    intSize ready.env .dsize = .four ∧ intSize ready.env .two ≠ .four ∧ ready.params.imm17Signed = true ∧
      readyOther.params.imm17Signed = false := by
  decide

theorem witness_LoadImmediate : (0x3123505678#38).extractLsb' 36 2 = 0b11#2 := by
  decide

theorem witness_ReservedRowsRefused :
    { ready with program := [0x2000000000#38] }.program[ready.pc]? = some 0x2000000000#38 ∧
      (0x2000000000#38).extractLsb' 35 3 = 0b100#3 ∧
      { ready with program := [0x0D80800000#38] }.program[ready.pc]? = some 0x0D80800000#38 ∧
      (0x0D80800000#38).extractLsb' 31 7 = 0b0011011#7 := by
  decide

end Sys2Proof.Tests
end

section
/-! PROOFS. What a word that decodes gives: one case for each format, with the bits that select it (30_encoding.md
R161), and the statements on the format (O5) and on the index scale (O7) read off it. -/

namespace Sys2Proof.Proofs
open Sys2Proof.Machine Sys2Proof.Laws

/-! ### The operand fields of the Op of a row -/

@[simp] theorem regOperands_regOpOf (row : Nat) (t0 ss : Bool) (ext : Ext4) (o : RegOperands) :
    regOperands (regOpOf row t0 ss ext o) = some o := by
  fun_cases regOpOf row t0 ss ext o <;> rfl

@[simp] theorem ldStAddress_ldStOf (type : Nat) (a : Address) (z : BitVec 2) (data : RegNum) :
    ldStAddress (ldStOf type a z data) = some a := by
  fun_cases ldStOf type a z data <;> rfl

@[simp] theorem specOperands_specOpOf (type : BitVec 4) (o : SpecOperands) :
    specOperands (specOpOf type o) = some o := by
  fun_cases specOpOf type o <;> rfl

/-! ### The operand fields an Op has fix bits 37:36 of its format -/

theorem formatCode_of_regOperands {i : Instr} (h : (regOperands i).isSome = true) : FormatBits.code i = 0b00#2 := by
  unfold regOperands at h
  split at h
  case h_46 => cases h
  all_goals rfl

theorem formatCode_of_ldStAddress {i : Instr} (h : (ldStAddress i).isSome = true) : FormatBits.code i = 0b01#2 := by
  unfold ldStAddress at h
  split at h
  case h_17 => cases h
  all_goals rfl

theorem formatCode_of_specOperands {i : Instr} (h : (specOperands i).isSome = true) : FormatBits.code i = 0b10#2 := by
  unfold specOperands at h
  split at h
  case h_11 => cases h
  all_goals rfl

/-! ### What the decoder gives -/

/-- The Ops the fields of a word can give, one case for each format and each reserved encoding, with the bits that
select it (30_encoding.md R161, R162, 41_regops.md R337). -/
inductive FieldsGive (w : OpWord) : Instr → Prop where
  | unassigned (top : opField w 36 2 = 0b00#2) (row : opField w 31 5 = 0b11011#5) :
    FieldsGive w (.unassigned (opField w 0 31))
  | regOp (dsz : RegSize) (top : opField w 36 2 = 0b00#2) (row : opField w 31 5 ≠ 0b11011#5)
    (size : regSizeOf (opField w 22 3) = some dsz) :
    FieldsGive w
      (regOpOf (opField w 31 5).toNat (w.getLsbD 30) (w.getLsbD 9) (opField w 26 4) (regOperandsOf w dsz))
  | ldSt (seg : SegCode) (top : opField w 36 2 = 0b01#2)
    (size : ¬(needsDsz (opField w 32 4) = true ∧ opField w 22 2 = 0b00#2))
    (segment : segCodeOf (opField w 26 4) = some seg) :
    FieldsGive w (ldStOf (opField w 32 4).toNat (addressOf w seg) (opField w 22 2) (opField w 17 5))
  | specOp (top : opField w 36 2 = 0b10#2) (bit35 : w.getLsbD 35 = true) :
    FieldsGive w (specOpOf (opField w 31 4) (specOperandsOf w))
  | noFormat (top : opField w 36 2 = 0b10#2) (bit35 : w.getLsbD 35 = false) :
    FieldsGive w (.noFormat (opField w 0 35))
  | limm (top : opField w 36 2 = 0b11#2) :
    FieldsGive w (.limm (opField w 17 4) (opField w 21 15 ++ opField w 0 17))

theorem decodeFields_of_decode {w : OpWord} {i : Instr} (h : decode w = .ok i) : decodeFields w = .ok i := by
  unfold decode at h
  split at h
  case h_1 => cases h
  case h_2 j hj =>
    split at h
    · cases h
    · cases h
      exact hj

theorem fieldsGive_of_decodeRegOp {w : OpWord} {i : Instr} (top : opField w 36 2 = 0b00#2)
    (h : decodeRegOp w = .ok i) : FieldsGive w i := by
  unfold decodeRegOp at h
  by_cases row : opField w 31 5 = 0b11011#5
  · rw [if_pos row] at h
    cases h
    exact .unassigned top row
  · rw [if_neg row] at h
    cases size : regSizeOf (opField w 22 3) with
    | none => simp [size] at h
    | some dsz =>
      rw [size] at h
      cases h
      exact .regOp dsz top row size

theorem fieldsGive_of_decodeLdSt {w : OpWord} {i : Instr} (top : opField w 36 2 = 0b01#2)
    (h : decodeLdSt w = .ok i) : FieldsGive w i := by
  unfold decodeLdSt at h
  by_cases size : needsDsz (opField w 32 4) = true ∧ opField w 22 2 = 0b00#2
  · rw [if_pos size] at h
    cases h
  · rw [if_neg size] at h
    cases segment : segCodeOf (opField w 26 4) with
    | none => simp [segment] at h
    | some seg =>
      rw [segment] at h
      cases h
      exact .ldSt seg top size segment

/-- The inversion of the decoder. -/
theorem fieldsGive_of_decode {w : OpWord} {i : Instr} (h : decode w = .ok i) : FieldsGive w i := by
  replace h := decodeFields_of_decode h
  unfold decodeFields at h
  split at h
  case h_1 n => exact fieldsGive_of_decodeRegOp (BitVec.eq_of_toNat_eq n) h
  case h_2 n => exact fieldsGive_of_decodeLdSt (BitVec.eq_of_toNat_eq n) h
  case h_3 n =>
    have top : opField w 36 2 = 0b10#2 := BitVec.eq_of_toNat_eq n
    cases bit35 : w.getLsbD 35 with
    | true =>
      rw [bit35] at h
      cases h
      exact .specOp top bit35
    | false =>
      rw [bit35] at h
      cases h
      exact .noFormat top bit35
  case h_4 n0 n1 n2 =>
    cases h
    have n3 : (opField w 36 2).toNat = 3 := by
      have lt := (opField w 36 2).isLt
      simp only [imp_false] at n0 n1 n2
      omega
    exact .limm (BitVec.eq_of_toNat_eq n3)

/-- Bits 37:36 of a word that decodes are those of the format of its Op: what `encode` writes there, `decode` reads. -/
theorem opField_format_of_decode {w : OpWord} {i : Instr} (h : decode w = .ok i) :
    opField w 36 2 = FormatBits.code i := by
  cases fieldsGive_of_decode h with
  | unassigned top _ => exact top
  | regOp _ top _ _ => exact top.trans (formatCode_of_regOperands (by simp)).symm
  | ldSt _ top _ _ => exact top.trans (formatCode_of_ldStAddress (by simp)).symm
  | specOp top _ => exact top.trans (formatCode_of_specOperands (by simp)).symm
  | noFormat top _ => exact top
  | limm top => exact top

/-! ### The format of an Op -/

/-- Bits 37:35 are bits 37:36 with bit 35 below them. -/
theorem opField_top3_eq_iff (w : OpWord) (c : BitVec 2) (b : Bool) :
    opField w 35 3 = c ++ BitVec.ofBool b ↔ opField w 36 2 = c ∧ w.getLsbD 35 = b := by
  have high : opField w 36 2 = (opField w 35 3).extractLsb' 1 2 := by
    ext k hk
    simp [opField, show 1 + k < 3 by omega, ← Nat.add_assoc]
  have low : w.getLsbD 35 = (opField w 35 3).getLsbD 0 := by
    simp [opField]
  rw [high, low]
  generalize opField w 35 3 = x
  revert x c b
  decide

theorem regOp_format_iff {w : OpWord} {i : Instr} (h : decode w = .ok i) :
    opField w 36 2 = 0b00#2 ↔ (regOperands i).isSome = true ∨ ∃ body, i = .unassigned body := by
  constructor
  · intro t
    cases fieldsGive_of_decode h with
    | unassigned _ _ => exact .inr ⟨_, rfl⟩
    | regOp _ _ _ _ => exact .inl (by simp)
    | ldSt _ top _ _ | specOp top _ | noFormat top _ | limm top => simp [top] at t
  · rintro (o | ⟨body, rfl⟩)
    · exact (opField_format_of_decode h).trans (formatCode_of_regOperands o)
    · exact opField_format_of_decode h

theorem ldSt_format_iff {w : OpWord} {i : Instr} (h : decode w = .ok i) :
    opField w 36 2 = 0b01#2 ↔ (ldStAddress i).isSome = true := by
  constructor
  · intro t
    cases fieldsGive_of_decode h with
    | ldSt _ _ _ _ => simp
    | unassigned top _ | regOp _ top _ _ | specOp top _ | noFormat top _ | limm top => simp [top] at t
  · exact fun a => (opField_format_of_decode h).trans (formatCode_of_ldStAddress a)

theorem specOp_format_iff {w : OpWord} {i : Instr} (h : decode w = .ok i) :
    opField w 36 2 = 0b10#2 ∧ w.getLsbD 35 = true ↔ (specOperands i).isSome = true := by
  constructor
  · rintro ⟨t, b⟩
    cases fieldsGive_of_decode h with
    | specOp _ _ => simp
    | noFormat _ bit35 => cases bit35.symm.trans b
    | unassigned top _ | regOp _ top _ _ | ldSt _ top _ _ | limm top => simp [top] at t
  · intro o
    have t := (opField_format_of_decode h).trans (formatCode_of_specOperands o)
    refine ⟨t, ?_⟩
    cases fieldsGive_of_decode h with
    | specOp _ bit35 => exact bit35
    | noFormat _ _ => cases o
    | unassigned top _ | regOp _ top _ _ | ldSt _ top _ _ | limm top => simp [top] at t

theorem noFormat_format_iff {w : OpWord} {i : Instr} (h : decode w = .ok i) :
    opField w 36 2 = 0b10#2 ∧ w.getLsbD 35 = false ↔ ∃ body, i = .noFormat body := by
  constructor
  · rintro ⟨t, b⟩
    cases fieldsGive_of_decode h with
    | noFormat _ _ => exact ⟨_, rfl⟩
    | specOp _ bit35 => cases bit35.symm.trans b
    | unassigned top _ | regOp _ top _ _ | ldSt _ top _ _ | limm top => simp [top] at t
  · rintro ⟨body, rfl⟩
    have t : opField w 36 2 = 0b10#2 := opField_format_of_decode h
    refine ⟨t, Bool.eq_false_iff.2 fun b => ?_⟩
    cases (specOp_format_iff h).1 ⟨t, b⟩

theorem limm_format_iff {w : OpWord} {i : Instr} (h : decode w = .ok i) :
    opField w 36 2 = 0b11#2 ↔ ∃ d imm, i = .limm d imm := by
  constructor
  · intro t
    cases fieldsGive_of_decode h with
    | limm _ => exact ⟨_, _, rfl⟩
    | unassigned top _ | regOp _ top _ _ | ldSt _ top _ _ | specOp top _ | noFormat top _ => simp [top] at t
  · rintro ⟨d, imm, rfl⟩
    exact opField_format_of_decode h

/-- Settles O5, by the inversion of the decoder in one direction and the format bits of each Op in the other. -/
theorem formatByTopBits : Obligations.FormatByTopBits := by
  intro w i h
  exact ⟨regOp_format_iff h, ldSt_format_iff h,
    (opField_top3_eq_iff w 0b10#2 true).trans (specOp_format_iff h),
    (opField_top3_eq_iff w 0b10#2 false).trans (noFormat_format_iff h), limm_format_iff h⟩

/-! ### The address of an LdStOp -/

theorem ldStAddress_isf_of_decode {w : OpWord} {i : Instr} {a : Address} (h : decode w = .ok i)
    (ha : ldStAddress i = some a) : a.isf = scaleOf (opField w 30 2) := by
  have t : opField w 36 2 = 0b01#2 := (ldSt_format_iff h).2 (by simp [ha])
  cases fieldsGive_of_decode h with
  | ldSt _ _ _ _ =>
    rw [ldStAddress_ldStOf] at ha
    cases ha
    rfl
  | unassigned top _ | regOp _ top _ _ | specOp top _ | noFormat top _ | limm top => simp [top] at t

/-- Settles O7: the scale of the Op is the one `scaleOf` reads from bits 31:30. -/
theorem scaleFactors : Obligations.ScaleFactors := by
  intro w i a h ha
  rw [ldStAddress_isf_of_decode h ha]
  unfold opField
  refine ⟨?_, ?_, ?_, ?_⟩ <;> intro code <;> rw [code] <;> rfl

end Sys2Proof.Proofs
end

section
/-! PROOFS. The step and the machine as a whole (10_state.md R34, R40, R49, R66, 70_reset_and_hazards.md R455): what a
step to a next state is (O10, O11, O60), the invariant (O13, O14), runs (O16), and what `exec_effect` says of every Op
(O15, O17 to O20). -/

namespace Sys2Proof.Proofs
open Sys2Proof.Machine Sys2Proof.Laws

/-! ### The step -/

/-- A step to a next state: there is an Op at `pc`, it decodes, and `exec` of it gives that state. -/
theorem step_eq_next {s t : State} :
    step s = .next t ↔ ∃ w i, s.program[s.pc]? = some w ∧ decode w = .ok i ∧ exec i s = .next t := by
  unfold step fetch
  cases s.program[s.pc]? with
  | none => simp
  | some w => cases h : decode w <;> simp [h]

theorem step_of_decode_ok {s : State} {w : OpWord} {i : Instr} (hw : s.program[s.pc]? = some w)
    (hi : decode w = .ok i) : step s = exec i s := by
  simp [step, fetch, hw, hi]

theorem step_of_decode_error {s : State} {w : OpWord} {v : Illegal} (hw : s.program[s.pc]? = some w)
    (hv : decode w = .error v) : step s = .refused (.illegal v s.pc) := by
  simp [step, fetch, hw, hv]

theorem step_of_no_op {s : State} (hw : s.program[s.pc]? = none) : step s = .refused (endOfRun s) := by
  simp [step, fetch, hw]

theorem exec_pc {i : Instr} {s t : State} (h : exec i s = .next t) : t.pc = s.pc + 1 :=
  (exec_effect h).pc

theorem exec_program {i : Instr} {s t : State} (h : exec i s = .next t) : t.program = s.program :=
  (exec_effect h).launch.program

/-- A step that answers a refusal of the end of a run has no Op at `pc`. -/
theorem no_op_of_step_refused {s : State} {r : Refusal} (h : step s = .refused r) (hr : r.ofOp = false) :
    s.program[s.pc]? = none := by
  cases hw : s.program[s.pc]? with
  | none => rfl
  | some w =>
    exfalso
    cases hi : decode w with
    | error v =>
      rw [step_of_decode_error hw hi] at h
      cases h
      cases hr
    | ok i =>
      rw [step_of_decode_ok hw hi] at h
      exact Bool.noConfusion ((exec_refused_ofOp h).symm.trans hr)

/-- Settles O10. -/
theorem stepRunsDecodedOp : Obligations.StepRunsDecodedOp := by
  intro s w hw
  refine ⟨fun i hi => ⟨step_of_decode_ok hw hi, fun t ht => ?_⟩, fun v => step_of_decode_error hw⟩
  exact exec_pc (step_of_decode_ok hw hi ▸ ht)

/-- Settles O11: the step answers `endOfRun` exactly where there is no Op. -/
theorem finalAtEndOfProgram : Obligations.FinalAtEndOfProgram := by
  intro s
  constructor
  · constructor
    · intro h
      rw [step_of_no_op (by simp [h])]
      simp [endOfRun, h]
    · intro h
      rw [step_of_no_op (no_op_of_step_refused h rfl)] at h
      by_contra hne
      simp [endOfRun, hne] at h
  · constructor
    · intro h
      rw [step_of_no_op (by simp; omega)]
      simp [endOfRun, show s.pc ≠ s.program.length by omega]
    · intro h
      have hn := no_op_of_step_refused h rfl
      rw [step_of_no_op hn] at h
      have hne : s.pc ≠ s.program.length := fun e => by simp [endOfRun, e] at h
      have hle : s.program.length ≤ s.pc := List.getElem?_eq_none_iff.mp hn
      omega

/-- Settles O12. -/
theorem resetLeaves : Obligations.ResetLeaves :=
  ⟨rfl, by decide, by decide, rfl, rfl, fun _ => rfl⟩

/-! ### The invariant -/

/-- Settles O13: every special register is 0 after reset, and the numeric-processor state is what SR29 = 0 makes it. -/
theorem resetHasInvariant : Obligations.ResetHasInvariant where
  memory := wf_reset
  pc := Nat.le_refl 0
  t0 := by decide
  sr := fun k => by cases k <;> exact BitVec.zero_and
  beforeException := fun h => by simp [State.reset] at h
  hyperFlg := fun _ => rfl
  upperTSCWord := by decide

/-- The storage of t0 is written by no register write (10_state.md R34). -/
theorem setSlot_regs_t0 (s : State) (k : Fin 24) (v : Word) : (setSlot s k v).regs[t0Slot] = s.regs[t0Slot] := by
  unfold setSlot
  split
  · rfl
  · next h =>
    have hv : (k : Nat) ≠ t0Slot := fun e => h (Fin.ext e)
    simp [hv]

theorem wr_regs_t0 (s : State) (n : RegNum) (sz : Size) (v : BitVec sz.bits) :
    (wr s n sz v).regs[t0Slot] = s.regs[t0Slot] := by
  cases sz <;> exact setSlot_regs_t0 _ _ _

/-- A write of a special register replaces no bit of a field that is not stored (10_state.md R49). -/
theorem srWritten_unstored (s : State) (r : SR) (v : Word) :
    srWritten s r v &&& ~~~(srStoreMask r) = s.sr.get r &&& ~~~(srStoreMask r) := by
  unfold srWritten
  ext j
  simp only [BitVec.getElem_and, BitVec.getElem_or, BitVec.getElem_not]
  cases (s.sr.get r)[j] <;> cases v[j] <;> cases (srStoreMask r)[j] <;> rfl

/-- A write of a special register stores the bits of the stored fields (10_state.md R49). -/
theorem srWritten_stored (s : State) (r : SR) (v : Word) :
    srWritten s r v &&& srStoreMask r = v &&& srStoreMask r := by
  unfold srWritten
  ext j
  simp only [BitVec.getElem_and, BitVec.getElem_or, BitVec.getElem_not]
  cases (s.sr.get r)[j] <;> cases v[j] <;> cases (srStoreMask r)[j] <;> rfl

/-- The upper half of the Tag/Status/Control store is the inverse of bit 22 (10_state.md R66). -/
theorem npConfigured_upper (np : NpState) (cfg : Word) (i : Nat) (hi : i < 16) :
    (npConfigured np cfg).tagStatusControl.getLsbD (16 + i) = !cfg.getLsbD 22 := by
  simp only [npConfigured, BitVec.getLsbD_append, show ¬(16 + i < 16) by omega, if_false, Nat.add_sub_cancel_left]
  cases cfg.getLsbD 22 with
  | true => simp
  | false =>
    revert i
    decide

/-- The numeric-processor state is as SR29 makes it (10_state.md R66, R69): the last three parts of `State.Inv`. -/
structure NpFollows (cfg : Word) (np : NpState) : Prop where
  beforeException : cfg.getLsbD 0 = true → np.beforeException = false
  hyperFlg : cfg.getLsbD 2 = false → np.hyperFlg = true
  upperTSCWord : ∀ i, i < 16 → np.tagStatusControl.getLsbD (16 + i) = !cfg.getLsbD 22

theorem npFollows_npConfigured (np : NpState) (cfg : Word) : NpFollows cfg (npConfigured np cfg) where
  beforeException := fun h => by simp [npConfigured, h]
  hyperFlg := fun h => by rw [show (npConfigured np cfg).hyperFlg = (np.hyperFlg || !cfg.getLsbD 2) from rfl, h]; simp
  upperTSCWord := npConfigured_upper np cfg

/-- A write of a special register keeps the numeric-processor state as SR29 makes it. -/
theorem npFollows_npAfter {s : State} (h : NpFollows s.sr.sr29 s.np) (r : SR) (v : Word) :
    NpFollows (s.sr.set r v).sr29 (npAfter s r v) := by
  cases r
  case sr29 => exact npFollows_npConfigured s.np v
  all_goals exact h

/-- What an Op did to each part of the state keeps the invariant. -/
theorem inv_of_effect {i : Instr} {s t : State} (e : Effect i s t) (h : State.Inv s)
    (hp : s.pc < s.program.length) : State.Inv t := by
  have np : NpFollows t.sr.sr29 t.np := by
    have hs : NpFollows s.sr.sr29 s.np := ⟨h.beforeException, h.hyperFlg, h.upperTSCWord⟩
    rcases e.sr with ⟨hsr, hnp⟩ | ⟨-, r, v, hsr, hnp⟩
    · rwa [hsr, hnp]
    · rw [hsr, hnp]
      exact npFollows_npAfter hs r _
  refine ⟨?_, ?_, ?_, ?_, np.beforeException, np.hyperFlg, np.upperTSCWord⟩
  · rcases e.mem with hm | ⟨-, ps, v, hm⟩
    · rw [hm, h.memory]
    · rw [hm, wf_storeBytes, h.memory]
  · rw [e.pc, e.launch.program]
    exact hp
  · rcases e.regs with hr | ⟨n, sz, v, -, hr⟩
    · rw [hr, h.t0]
    · rw [hr, wr_regs_t0, h.t0]
  · intro k
    rcases e.sr with ⟨hsr, -⟩ | ⟨-, r, v, hsr, -⟩
    · rw [hsr, h.sr]
    · rw [hsr, SpecialRegs.get_set]
      split
      · next hk => rw [hk, srWritten_unstored, h.sr]
      · exact h.sr k

/-- Settles O14, part by part from what `exec_effect` says a step did. -/
theorem stepKeepsInvariant : Obligations.StepKeepsInvariant := by
  intro s t h hst
  obtain ⟨w, i, hw, -, hi⟩ := step_eq_next.mp hst
  exact inv_of_effect (exec_effect hi) h (List.getElem?_eq_some_iff.mp hw).1

/-! ### Runs -/

/-- Settles O15. -/
theorem everyOpAdvancesAndKeepsLaunch : Obligations.EveryOpAdvancesAndKeepsLaunch :=
  fun _ _ _ h => ⟨(exec_effect h).pc, (exec_effect h).launch⟩

theorem stops_of_not_next {s : State} (h : ∀ t, step s ≠ .next t) : stops s = true := by
  unfold stops
  split
  · next t ht => exact absurd ht (h t)
  · rfl

/-- A run of `n` Ops left ends within `n` steps: each step to a next state leaves one Op less. -/
theorem run_ends (n : Nat) (s : State) (hn : s.pc + n = s.program.length) :
    ∃ (m : Nat) (t : State), m ≤ n ∧ stepN m s = some t ∧ stops t = true ∧
      (step t = .refused (.final t.pc) ↔ m = n) := by
  induction n generalizing s with
  | zero =>
    have hf := (finalAtEndOfProgram s).1.mp hn
    exact ⟨0, s, Nat.le_refl 0, rfl, stops_of_not_next (by simp [hf]), by simp [hf]⟩
  | succ n ih =>
    by_cases h : ∃ t, step s = .next t
    · obtain ⟨t, ht⟩ := h
      obtain ⟨w, i, -, -, hi⟩ := step_eq_next.mp ht
      obtain ⟨m, u, hm, hu, hstop, hfin⟩ := ih t (by rw [exec_pc hi, exec_program hi]; omega)
      exact ⟨m + 1, u, by omega, by simp [stepN, ht, hu], hstop, by rw [hfin]; omega⟩
    · have hpc : s.pc ≠ s.program.length := by omega
      refine ⟨0, s, Nat.zero_le _, rfl, stops_of_not_next (not_exists.mp h), ?_⟩
      rw [← (finalAtEndOfProgram s).1]
      omega

/-- Settles O16, by induction on the number of Ops left. -/
theorem everyRunEnds : Obligations.EveryRunEnds :=
  fun s hs => run_ends (s.program.length - s.pc) s (by omega)

/-! ### What each Op writes -/

/-- A register write changes no storage but the named one. -/
theorem getSlot_wr_other (s : State) (n : RegNum) (sz : Size) (v : BitVec sz.bits) {k : Fin 24}
    (h : k ≠ namedSlot s.env n sz) : getSlot (wr s n sz v) k = getSlot s k := by
  apply BitVec.eq_of_getLsbD_eq
  intro j hj
  rw [wr_bits s n sz v k j hj, if_neg fun c => h c.1]

/-- Settles O17. -/
theorem oneDestination : Obligations.OneDestination := by
  intro i s t h k hk
  rcases (exec_effect h).regs with hr | ⟨n, sz, v, hd, hr⟩
  · exact getSlot_congr hr k
  · rw [getSlot_congr hr, getSlot_wr_other s n sz v (hk n sz hd)]

/-- Settles O18: a write of flags is `writeFlags` of the selected ones. -/
theorem flagWriters : Obligations.FlagWriters := by
  intro i s t h
  rcases (exec_effect h).flags with hf | ⟨ext, v, hst, hf⟩
  · rw [hf]
    exact ⟨fun _ => rfl, fun _ _ _ _ => rfl, rfl, rfl⟩
  · rw [hf, hst]
    refine ⟨(nomatch ·), ?_, rfl, rfl⟩
    intro ext' f e hsel
    cases e
    by_cases he : f = .ecf
    · rw [he]; rfl
    · by_cases hz : f = .ezf
      · rw [hz]; rfl
      · rw [writeFlags_get _ _ _ _ he hz, if_neg hsel]

/-- Settles O19. -/
theorem onlyStoresWriteMemory : Obligations.OnlyStoresWriteMemory := by
  intro i s t h
  rcases (exec_effect h).mem with hm | ⟨hi, ps, v, hm⟩
  · rw [hm]
    exact ⟨fun _ => rfl, fun _ => rfl⟩
  · rw [hm, hi]
    exact ⟨(nomatch ·), isSome_storeBytes _ _ _⟩

/-- Settles O20. -/
theorem writersOfTheOtherState : Obligations.WritersOfTheOtherState := by
  intro i s t h
  have e := exec_effect h
  refine ⟨fun n => e.mmx.resolve_right fun c => by simp [n] at c,
    fun n => e.sr.resolve_right fun c => by simp [n] at c,
    fun n => e.br.resolve_right fun c => by simp [n] at c,
    fun n => e.locks.resolve_right fun c => by simp [n] at c, ?_⟩
  rcases e.locks with hl | ⟨-, ev, hl⟩
  · rw [hl]
  · rw [hl]
    exact List.prefix_append _ _

end Sys2Proof.Proofs
end

section
/-! PROOFS. Decoding what the encoder writes (O2): the fields of a word of each format give back its Op, and a
well-formed Op passes the checks of its row (30_encoding.md R211). -/

namespace Sys2Proof.Proofs
open Sys2Proof.Machine Sys2Proof.Laws

/-! ### The checks after the fields -/

/-- A word decodes to what its fields give when that Op is well formed. -/
theorem decode_of_fields {w : OpWord} {i : Instr} (hf : decodeFields w = .ok i) (hi : i.illegality = none) :
    decode w = .ok i := by
  simp only [decode, hf, hi]

/-- A word is refused by the verdict on what its fields give. -/
theorem decode_illegal {w : OpWord} {i : Instr} {v : Illegal} (hf : decodeFields w = .ok i)
    (hi : i.illegality = some v) : decode w = .error v := by
  simp only [decode, hf, hi]

theorem illegality_of_wellFormed {i : Instr} (h : i.wellFormed = true) : i.illegality = none :=
  Option.isNone_iff_eq_none.mp h

/-! ### Field codes -/

theorem statusOf_isSome_getD (st : Option Ext4) : statusOf st.isSome (st.getD 0#4) = st := by
  cases st <;> rfl

theorem num5_msb_extractLsb (k : BitVec 5) : num5 k.msb (k.extractLsb' 0 4) = k := by
  revert k
  decide

theorem intSize_code_ok (type : BitVec 4) (sz : IntSize) (h : needsDsz type = false) :
    ¬(needsDsz type = true ∧ sz.code = 0b00#2) := by
  simp [h]

theorem fpSize_code_ok {type : BitVec 4} {sz : FpSize} (h : needsDsz type = false ∨ sz ≠ .fpDSize) :
    ¬(needsDsz type = true ∧ sz.code = 0b00#2) := by
  rintro ⟨ht, hs⟩
  rcases h with h | h
  · simp [h] at ht
  · cases sz
    · exact h rfl
    all_goals simp [FpSize.code] at hs

/-! ### One format at a time -/

/-- An LdStOp of Table 2.25 comes back. -/
theorem decode_ldStWord_int {type : BitVec 4} {a : Address} {sz : IntSize} {d : RegNum} {i : Instr}
    (ht : needsDsz type = false) (hi : ldStOf type.toNat a sz.code d = i) (hw : i.wellFormed = true) :
    decode (ldStWord type a sz.code d) = .ok i :=
  decode_of_fields (hi ▸ decodeFields_ldStWord type a sz.code d (intSize_code_ok type sz ht))
    (illegality_of_wellFormed hw)

/-- An LdStOp of Table 2.26 comes back, where its row admits its DSz. -/
theorem decode_ldStWord_fp {type : BitVec 4} {a : Address} {sz : FpSize} {d : RegNum} {i : Instr}
    (ht : needsDsz type = false ∨ sz ≠ .fpDSize) (hi : ldStOf type.toNat a sz.code d = i)
    (hw : i.wellFormed = true) : decode (ldStWord type a sz.code d) = .ok i :=
  decode_of_fields (hi ▸ decodeFields_ldStWord type a sz.code d (fpSize_code_ok ht)) (illegality_of_wellFormed hw)

/-- A RegOp whose Ext is a status field comes back. -/
theorem decode_regStWord {row : BitVec 5} {t0 : Bool} {st : Option Ext4} {o : RegOperands} {i : Instr}
    (hr : row ≠ 0b11011#5) (hi : regOpOf row.toNat t0 st.isSome (st.getD 0) o = i) (hw : i.wellFormed = true) :
    decode (regStWord row t0 st o) = .ok i :=
  decode_of_fields (hi ▸ decodeFields_regWord row t0 _ _ o hr) (illegality_of_wellFormed hw)

/-- A RegOp whose Type[0] and Ext are a 5-bit number comes back. -/
theorem decode_regNumWord {row : BitVec 5} {k : BitVec 5} {ss : Bool} {o : RegOperands} {i : Instr}
    (hr : row ≠ 0b11011#5) (hi : regOpOf row.toNat k.msb ss (k.extractLsb' 0 4) o = i) (hw : i.wellFormed = true) :
    decode (regNumWord row k ss o) = .ok i :=
  decode_of_fields (hi ▸ decodeFields_regWord row _ _ _ o hr) (illegality_of_wellFormed hw)

/-- A SpecOp comes back. -/
theorem decode_specWord {type : BitVec 4} {o : SpecOperands} {i : Instr} (hi : specOpOf type o = i)
    (hw : i.wellFormed = true) : decode (specWord type o) = .ok i :=
  decode_of_fields (hi ▸ decodeFields_specWord type o) (illegality_of_wellFormed hw)

/-- The four codes of the two low bits of a Type. -/
theorem twoBits_cases (x : BitVec 2) : x = 0 ∨ x = 1 ∨ x = 2 ∨ x = 3 := by
  revert x
  decide

theorem specOpOf_brcond (low : BitVec 2) (o : SpecOperands) : specOpOf (0b00#2 ++ low) o = .brcond low o := by
  rcases twoBits_cases low with rfl | rfl | rfl | rfl <;> rfl

theorem specOpOf_fault (low : BitVec 2) (o : SpecOperands) : specOpOf (0b11#2 ++ low) o = .fault low o := by
  rcases twoBits_cases low with rfl | rfl | rfl | rfl <;> rfl

theorem decode_limmWord (d : BitVec 4) (v : Word) : decode (limmWord d v) = .ok (.limm d v) :=
  decode_of_fields (decodeFields_limmWord d v) rfl

/-- A word whose bits 37:35 are 100 has no format (30_encoding.md R162). -/
theorem decode_noFormat {w : OpWord} (top : opField w 36 2 = 0b10#2) (bit35 : w.getLsbD 35 = false) :
    decode w = .ok (.noFormat (opField w 0 35)) := by
  refine decode_of_fields ?_ rfl
  unfold decodeFields
  rw [top]
  show (if w.getLsbD 35 = true then _ else _) = _
  rw [bit35, if_neg Bool.false_ne_true]

/-- A word of RegOp row 11011 is unassigned whatever its other fields (41_regops.md R337). -/
theorem decode_unassigned {w : OpWord} (top : opField w 36 2 = 0b00#2) (row : opField w 31 5 = 0b11011#5) :
    decode w = .ok (.unassigned (opField w 0 31)) := by
  refine decode_of_fields ?_ rfl
  unfold decodeFields
  rw [top]
  show decodeRegOp w = _
  unfold decodeRegOp
  rw [if_pos row]

theorem decode_encode_noFormat (body : BitVec 35) : decode (0b100#3 ++ body) = .ok (.noFormat body) := by
  have top : opField (0b100#3 ++ body) 35 3 = 0b10#2 ++ BitVec.ofBool false :=
    (field_hi _ _ (by decide)).trans (field_self _)
  obtain ⟨high, low⟩ := (opField_top3_eq_iff _ _ _).mp top
  exact (decode_noFormat high low).trans
    (congrArg (fun b => Except.ok (Instr.noFormat b)) ((field_lo _ _ (by decide)).trans (field_self _)))

theorem decode_encode_unassigned (body : BitVec 31) :
    decode (0b00#2 ++ 0b11011#5 ++ body) = .ok (.unassigned body) := by
  have top : opField (0b00#2 ++ 0b11011#5 ++ body) 36 2 = 0b00#2 :=
    (field_hi _ _ (by decide)).trans ((field_hi _ _ (by decide)).trans (field_self _))
  have row : opField (0b00#2 ++ 0b11011#5 ++ body) 31 5 = 0b11011#5 :=
    (field_hi _ _ (by decide)).trans ((field_lo _ _ (by decide)).trans (field_self _))
  exact (decode_unassigned top row).trans
    (congrArg (fun b => Except.ok (Instr.unassigned b)) ((field_lo _ _ (by decide)).trans (field_self _)))

/-! ### Sizes of a well-formed Op -/

theorem ne_one_of_byteIllegality {z : RegSize} (h : byteIllegality z = none) : z ≠ .one := by
  rintro rfl
  cases h

theorem eq_one_of_byteOnlyIllegality {z : RegSize} (h : byteOnlyIllegality z = none) : z = .one := by
  by_contra hz
  simp [byteOnlyIllegality, hz] at h

theorem ne_fpDSize_of_mmIllegality {z : FpSize} {d : RegNum} (h : mmIllegality z d = none) : z ≠ .fpDSize := by
  rintro rfl
  cases h

/-! ### Every Op -/

/-- Settles O2, by the format of the Op; in the rows that hold two Ops the size of a well-formed one tells which. -/
theorem decodeEncode : Obligations.DecodeEncode := by
  intro i h
  have hi := illegality_of_wellFormed h
  cases i
  case ld | ldst | ldpf | ldstl | st | stupd | cda | cia | tia | lea =>
    exact decode_ldStWord_int rfl (by simp [ldStOf, Instr.canonical]) h
  case ldf | stf =>
    exact decode_ldStWord_fp (.inl rfl) (by simp [ldStOf, Instr.canonical]) h
  case ldm | ldmstl | stm =>
    exact decode_ldStWord_fp (.inr (ne_fpDSize_of_mmIllegality hi)) (by simp [ldStOf, Instr.canonical]) h
  case cdaf a sz d =>
    refine decode_ldStWord_fp (.inr ?_) (by simp [ldStOf, Instr.canonical]) h
    rintro rfl
    cases hi
  case inc | dec | mov => exact decode_regStWord (by decide) rfl rfl
  case add | or | adc | sbb | and | sub | xor | cmp | sll | srl | slc | src | sla | sra =>
    exact decode_regStWord (by decide) (by simp [regOpOf, statusOf_isSome_getD, Instr.canonical]) h
  case sld | srd | rdflgs =>
    have hz := ne_one_of_byteIllegality hi
    exact decode_regStWord (by decide) (by simp [regOpOf, statusOf_isSome_getD, Instr.canonical, hz]) h
  case rls | rrs | daa | das =>
    have hz := eq_one_of_byteOnlyIllegality hi
    exact decode_regStWord (by decide) (by simp [regOpOf, statusOf_isSome_getD, Instr.canonical, hz]) h
  case zext8 | sext8 | zext16 | sext16 | mul1s | mul1u | muleh | mulel | div1 | div2 | diver | diveq | rdflg | bswap |
      wrdr | wrdl | wrip | wrdlip | chks | wrdh =>
    exact decode_regStWord (by decide) (by simp [regOpOf, statusOf_isSome_getD, Instr.canonical]) h
  case movcc | rdxxx | rdseg | wrxxx =>
    exact decode_regNumWord (by decide) (by simp [regOpOf, num5_msb_extractLsb, Instr.canonical]) h
  case brcond => exact decode_specWord (specOpOf_brcond _ _) h
  case fault => exact decode_specWord (specOpOf_fault _ _) h
  case lddha | lddhab | ldaha | ldahab | ldk | fpop | ldkd | fpope => exact decode_specWord rfl h
  case limm => exact decode_limmWord _ _
  case noFormat => exact decode_encode_noFormat _
  case unassigned => exact decode_encode_unassigned _
  case cadd | eor | eand | band | esub | csub | exor | bll | rlc | rrc | rld | rrd | mmx => cases h

end Sys2Proof.Proofs
end

section
/-! PROOFS. The bits a word is read in (30_encoding.md R212): encoding what was decoded clears the ignored bits (O3), and
words that differ in ignored bits alone decode alike (O4). Two words are compared field by field. -/

namespace Sys2Proof.Proofs
open Sys2Proof.Machine Sys2Proof.Laws

/-! ### Words compared by their fields -/

/-- Two words that agree in neighbouring fields agree in both together. -/
theorem opField_glue {x y : OpWord} {lo n m : Nat} (low : opField x lo n = opField y lo n)
    (high : opField x (lo + n) m = opField y (lo + n) m) : opField x lo (m + n) = opField y lo (m + n) := by
  unfold opField at *
  rw [← BitVec.extractLsb'_append_extractLsb'_eq_extractLsb' rfl, low, high,
    BitVec.extractLsb'_append_extractLsb'_eq_extractLsb' rfl]

theorem eq_of_opField {x y : OpWord} (h : opField x 0 38 = opField y 0 38) : x = y :=
  (field_self x).symm.trans (h.trans (field_self y))

/-- A field none of whose bits is cleared. -/
theorem opField_clear_of_zero {w m : OpWord} {lo n : Nat} (h : opField m lo n = 0) :
    opField (w &&& ~~~m) lo n = opField w lo n := by
  apply BitVec.eq_of_getLsbD_eq
  intro i hi
  have hm : m.getLsbD (lo + i) = false := by simpa [opField, hi] using congrArg (fun x => x.getLsbD i) h
  by_cases hw : lo + i < 38
  · simp only [opField, BitVec.getLsbD_extractLsb', BitVec.getLsbD_and, BitVec.getLsbD_not, hi, hm, hw, decide_true,
      Bool.true_and, Bool.not_false, Bool.and_true]
  · simp [opField, hi, BitVec.getLsbD_of_ge w (lo + i) (by omega)]

/-- A field all of whose bits are cleared. -/
theorem opField_clear_of_ones {w m : OpWord} {lo n : Nat} (h : opField m lo n = BitVec.allOnes n) :
    opField (w &&& ~~~m) lo n = 0 := by
  apply BitVec.eq_of_getLsbD_eq
  intro i hi
  have hm : m.getLsbD (lo + i) = true := by simpa [opField, hi] using congrArg (fun x => x.getLsbD i) h
  simp [opField, hi, hm]

/-! ### The ignored bits of each format -/

/-- The rows whose Ext is part of a 5-bit number (30_encoding.md R187). -/
def numRow (row : BitVec 5) : Bool :=
  [0b10011#5, 0b11000#5, 0b11010#5, 0b11101#5].contains row

/-- The ignored bits of a RegOp whose second operand is an immediate or not and whose Ext is read or not. -/
def regOpIgnored (imm ext : Bool) : OpWord :=
  0x0000000C00#38 ||| (if imm then 0 else 0x00000000E0#38) ||| (if ext then 0 else 0x003C000000#38)

theorem ignoredBits_regOp {w : OpWord} (top : opField w 36 2 = 0b00#2) (row : opField w 31 5 ≠ 0b11011#5) :
    ignoredBits w = regOpIgnored (w.getLsbD 8) (w.getLsbD 9 || numRow (opField w 31 5)) := by
  unfold ignoredBits
  rw [top]
  exact if_neg row

theorem ignoredBits_unassigned {w : OpWord} (top : opField w 36 2 = 0b00#2) (row : opField w 31 5 = 0b11011#5) :
    ignoredBits w = 0 := by
  unfold ignoredBits
  rw [top]
  exact if_pos row

theorem ignoredBits_ldSt {w : OpWord} (top : opField w 36 2 = 0b01#2) :
    ignoredBits w = if w.getLsbD 16 then 0x0000000FF0#38 else 0 := by
  unfold ignoredBits
  rw [top]
  rfl

theorem ignoredBits_spec {w : OpWord} (top : opField w 36 2 = 0b10#2) :
    ignoredBits w = if w.getLsbD 35 then 0x0003000000#38 else 0 := by
  unfold ignoredBits
  rw [top]
  rfl

theorem ignoredBits_limm {w : OpWord} (top : opField w 36 2 = 0b11#2) : ignoredBits w = 0 := by
  unfold ignoredBits
  rw [top]
  rfl

/-- A word keeps every field where no ignored bit stands. -/
theorem opField_agree {w v : OpWord} (h : v &&& ~~~(ignoredBits w) = w &&& ~~~(ignoredBits w)) {lo n : Nat}
    (hz : opField (ignoredBits w) lo n = 0) : opField v lo n = opField w lo n := by
  rw [← opField_clear_of_zero hz, h, opField_clear_of_zero hz]

/-! ### Fields the encoder writes zero, and codes written again -/

theorem reg_reserved (row : BitVec 5) (t0 : Bool) (ext : Ext4) (ss : Bool) (o : RegOperands) :
    opField (regWord row t0 ext ss o) 10 2 = 0b00#2 := by
  unfold opField regWord
  rw [field_hi _ _ (by decide), field_hi _ _ (by decide), field_hi _ _ (by decide), field_lo _ _ (by decide)]
  exact field_self _

theorem spec_reserved (ty : BitVec 4) (o : SpecOperands) : opField (specWord ty o) 24 2 = 0b00#2 := by
  unfold opField specWord
  rw [field_hi _ _ (by decide), field_hi _ _ (by decide), field_hi _ _ (by decide), field_lo _ _ (by decide)]
  exact field_self _

theorem scaleOf_inv (c : BitVec 2) : (scaleOf c).code = c := by
  revert c
  decide

theorem addrSizeOf_inv (c : BitVec 2) : (addrSizeOf c).code = c := by
  revert c
  decide

theorem intSizeOf_inv (c : BitVec 2) : (intSizeOf c).code = c := by
  revert c
  decide

theorem fpSizeOf_inv (c : BitVec 2) : (fpSizeOf c).code = c := by
  revert c
  decide

theorem segCodeOf_inv {c : BitVec 4} {x : SegCode} (h : segCodeOf c = some x) : x.code = c := by
  have key : ∀ c : BitVec 4, (segCodeOf c).all fun x => x.code == c := by decide
  simpa [h] using key c

theorem regSizeOf_inv {c : BitVec 3} {x : RegSize} (h : regSizeOf c = some x) : x.code = c := by
  have key : ∀ c : BitVec 3, (regSizeOf c).all fun x => x.code == c := by decide
  simpa [h] using key c

/-! ### The word of the Op of a row -/

theorem encode_ldStOf {n : Nat} (a : Address) (z : BitVec 2) (d : RegNum) (hn : n < 16) :
    encode (ldStOf n a z d) = ldStWord (BitVec.ofNat 4 n) a z d := by
  fun_cases ldStOf n a z d
  case case16 =>
    obtain rfl : n = 15 := by
      simp only [imp_false] at *
      omega
    simp [encode, intSizeOf_inv]
  all_goals simp [encode, intSizeOf_inv, fpSizeOf_inv]

theorem regStWord_statusOf (row : BitVec 5) (t0 ss : Bool) (ext : Ext4) (o : RegOperands) :
    regStWord row t0 (statusOf ss ext) o = regWord row t0 (if ss then ext else 0) ss o := by
  cases ss <;> rfl

theorem num5_msb (t0 : Bool) (ext : Ext4) : (num5 t0 ext).msb = t0 := by
  revert t0 ext
  decide

theorem num5_ext (t0 : Bool) (ext : Ext4) : (num5 t0 ext).extractLsb' 0 4 = ext := by
  revert t0 ext
  decide

theorem regNumWord_num5 (row : BitVec 5) (t0 ss : Bool) (ext : Ext4) (o : RegOperands) :
    regNumWord row (num5 t0 ext) ss o = regWord row t0 ext ss o := by
  rw [regNumWord, num5_msb, num5_ext]

/-- The Ext the encoder writes for an Op of a row: 0 where it is not read. -/
def writtenExt (row : BitVec 5) (ss : Bool) (ext : Ext4) : Ext4 :=
  if ss || numRow row then ext else 0

theorem writtenExt_status {row : BitVec 5} (h : numRow row = false) (ss : Bool) (ext : Ext4) :
    writtenExt row ss ext = if ss then ext else 0 := by
  simp [writtenExt, h]

theorem writtenExt_number {row : BitVec 5} (h : numRow row = true) (ss : Bool) (ext : Ext4) :
    writtenExt row ss ext = ext := by
  simp [writtenExt, h]

/-- The word of the Op of an assigned row. -/
theorem encode_regOpOf {n : Nat} (t0 ss : Bool) (ext : Ext4) (o : RegOperands) (hn : n < 32) (h27 : n ≠ 27) :
    encode (regOpOf n t0 ss ext o) =
      regWord (BitVec.ofNat 5 n) t0 (writtenExt (BitVec.ofNat 5 n) ss ext) ss o := by
  fun_cases regOpOf n t0 ss ext o
  case case26 | case35 | case38 | case41 =>
    rw [writtenExt_number rfl]
    exact regNumWord_num5 _ _ _ _ _
  case case44 | case45 =>
    obtain rfl : n = 31 := by
      simp only [imp_false] at *
      omega
    simp_all [encode, writtenExt, numRow]
    exact regStWord_statusOf _ _ _ _ _
  all_goals
    simp_all [encode, writtenExt, numRow]
    exact regStWord_statusOf _ _ _ _ _

theorem twoBits_above_zero {type : BitVec 4} (h : type.toNat < 4) : 0b00#2 ++ type.extractLsb' 0 2 = type := by
  revert type
  decide

theorem twoBits_above_three {type : BitVec 4} (h : 12 ≤ type.toNat) : 0b11#2 ++ type.extractLsb' 0 2 = type := by
  revert type
  decide

/-- The word of the SpecOp of a Type. -/
theorem encode_specOpOf (type : BitVec 4) (o : SpecOperands) : encode (specOpOf type o) = specWord type o := by
  fun_cases specOpOf type o
  case case9 => exact congrArg (specWord · o) (twoBits_above_zero (by assumption))
  case case10 =>
    refine congrArg (specWord · o) (twoBits_above_three ?_)
    simp only [imp_false] at *
    omega
  all_goals exact congrArg (specWord · o) (BitVec.eq_of_toNat_eq (Eq.symm (by assumption)))

/-! ### What was decoded, written again -/

theorem opField_one (w : OpWord) (i : Nat) : opField w i 1 = BitVec.ofBool (w.getLsbD i) := by
  rw [getLsbD_field]
  generalize opField w i 1 = x
  revert x
  decide

theorem dispOf_code_ld (w : OpWord) : (dispOf w).code.1 = opField w 16 1 := by
  rw [opField_one, dispOf]
  cases w.getLsbD 16 <;> rfl

theorem src2Of_code_imm (w : OpWord) : (src2Of w).code.1 = opField w 8 1 := by
  rw [opField_one, src2Of]
  cases w.getLsbD 8 <;> rfl

/-- The word of the LdStOp format without its ignored bits. -/
theorem ldStWord_of_fields {w : OpWord} {seg : SegCode} (top : opField w 36 2 = 0b01#2)
    (segment : segCodeOf (opField w 26 4) = some seg) :
    ldStWord (opField w 32 4) (addressOf w seg) (opField w 22 2) (opField w 17 5) = w &&& ~~~(ignoredBits w) := by
  have kept : ∀ {lo n : Nat}, (∀ b : Bool, opField (if b then 0x0000000FF0#38 else 0) lo n = 0) →
      opField (w &&& ~~~(ignoredBits w)) lo n = opField w lo n := fun h =>
    opField_clear_of_zero (by rw [ignoredBits_ldSt top]; exact h _)
  have disp8 : (dispOf w).code.2 = opField (w &&& ~~~(ignoredBits w)) 4 8 := by
    rw [ignoredBits_ldSt top, dispOf]
    cases w.getLsbD 16
    · exact (opField_clear_of_zero (by decide)).symm
    · exact (opField_clear_of_ones (by decide)).symm
  refine eq_of_opField (opField_glue (n := 4) ?_ (opField_glue (n := 8) ?_ (opField_glue (n := 4) ?_
    (opField_glue (n := 1) ?_ (opField_glue (n := 5) ?_ (opField_glue (n := 2) ?_ (opField_glue (n := 2) ?_
    (opField_glue (n := 4) ?_ (opField_glue (n := 2) ?_ (opField_glue (n := 4) (m := 2) ?_ ?_))))))))))
  · rw [ldSt_index, kept (by decide)]; rfl
  · rw [ldSt_disp8]; exact disp8
  · rw [ldSt_base, kept (by decide)]; rfl
  · rw [ldSt_ld, kept (by decide)]; exact dispOf_code_ld w
  · rw [ldSt_data, kept (by decide)]
  · rw [ldSt_dsz, kept (by decide)]
  · rw [ldSt_asz, kept (by decide)]; exact addrSizeOf_inv _
  · rw [ldSt_seg, kept (by decide)]; exact segCodeOf_inv segment
  · rw [ldSt_isf, kept (by decide)]; exact scaleOf_inv _
  · rw [ldSt_type, kept (by decide)]
  · rw [ldSt_format, kept (by decide), top]

/-- The word of the RegOp format without its ignored bits. -/
theorem regWord_of_fields {w : OpWord} {dsz : RegSize} (top : opField w 36 2 = 0b00#2)
    (row : opField w 31 5 ≠ 0b11011#5) (size : regSizeOf (opField w 22 3) = some dsz) :
    regWord (opField w 31 5) (w.getLsbD 30) (writtenExt (opField w 31 5) (w.getLsbD 9) (opField w 26 4))
      (w.getLsbD 9) (regOperandsOf w dsz) = w &&& ~~~(ignoredBits w) := by
  have ignored := ignoredBits_regOp top row
  have kept : ∀ {lo n : Nat}, (∀ b c : Bool, opField (regOpIgnored b c) lo n = 0) →
      opField (w &&& ~~~(ignoredBits w)) lo n = opField w lo n := fun h =>
    opField_clear_of_zero (by rw [ignored]; exact h _ _)
  have ext : writtenExt (opField w 31 5) (w.getLsbD 9) (opField w 26 4) =
      opField (w &&& ~~~(ignoredBits w)) 26 4 := by
    rw [ignored, writtenExt]
    cases w.getLsbD 9 || numRow (opField w 31 5)
    · refine (opField_clear_of_ones ?_).symm
      cases w.getLsbD 8 <;> decide
    · refine (opField_clear_of_zero ?_).symm
      cases w.getLsbD 8 <;> decide
  have src2 : (src2Of w).code.2 = opField (w &&& ~~~(ignoredBits w)) 0 8 := by
    have low : opField (w &&& ~~~(ignoredBits w)) 0 5 = opField w 0 5 := kept (by decide)
    have high : w.getLsbD 8 = false → opField (w &&& ~~~(ignoredBits w)) 5 3 = 0 := fun h =>
      opField_clear_of_ones (by rw [ignored, h]; cases w.getLsbD 9 || numRow (opField w 31 5) <;> decide)
    have all : w.getLsbD 8 = true → opField (w &&& ~~~(ignoredBits w)) 0 8 = opField w 0 8 := fun h =>
      opField_clear_of_zero (by rw [ignored, h]; cases w.getLsbD 9 || numRow (opField w 31 5) <;> decide)
    rw [src2Of]
    cases h : w.getLsbD 8
    · have glue := BitVec.extractLsb'_append_extractLsb'_eq_extractLsb' (x := w &&& ~~~(ignoredBits w))
        (start₂ := 5) (start₁ := 0) (len₁ := 5) (len₂ := 3) rfl
      exact (congrArg₂ (· ++ ·) (high h).symm low.symm).trans glue
    · exact (all h).symm
  refine eq_of_opField (opField_glue (n := 8) ?_ (opField_glue (n := 1) ?_ (opField_glue (n := 1) ?_
    (opField_glue (n := 2) ?_ (opField_glue (n := 5) ?_ (opField_glue (n := 5) ?_ (opField_glue (n := 3) ?_
    (opField_glue (n := 1) ?_ (opField_glue (n := 4) ?_ (opField_glue (n := 1) ?_
    (opField_glue (n := 5) (m := 2) ?_ ?_)))))))))))
  · rw [reg_src2]; exact src2
  · rw [reg_imm, kept (by decide)]; exact src2Of_code_imm w
  · rw [reg_ss, kept (by decide), opField_one]
  · refine (reg_reserved _ _ _ _ _).trans (opField_clear_of_ones ?_).symm
    rw [ignored]
    generalize w.getLsbD 8 = b, (w.getLsbD 9 || numRow (opField w 31 5)) = c
    revert b c
    decide
  · rw [reg_src1, kept (by decide)]; rfl
  · rw [reg_dest, kept (by decide)]; rfl
  · rw [reg_dsz, kept (by decide)]; exact regSizeOf_inv size
  · rw [reg_rx, kept (by decide), opField_one]; rfl
  · rw [reg_ext]; exact ext
  · rw [reg_type0, kept (by decide), opField_one]
  · rw [reg_row, kept (by decide)]
  · rw [reg_format, kept (by decide), top]

/-- The word of the SpecOp format without its ignored bits. -/
theorem specWord_of_fields {w : OpWord} (top : opField w 36 2 = 0b10#2) (bit35 : w.getLsbD 35 = true) :
    specWord (opField w 31 4) (specOperandsOf w) = w &&& ~~~(ignoredBits w) := by
  have ignored : ignoredBits w = 0x0003000000#38 := by
    rw [ignoredBits_spec top, bit35]
    rfl
  rw [ignored]
  refine eq_of_opField (opField_glue (n := 17) ?_ (opField_glue (n := 5) ?_ (opField_glue (n := 2) ?_
    (opField_glue (n := 2) ?_ (opField_glue (n := 5) ?_ (opField_glue (n := 4) (m := 3) ?_ ?_))))))
  · rw [spec_imm17, opField_clear_of_zero (by decide)]; rfl
  · rw [spec_dest, opField_clear_of_zero (by decide)]; rfl
  · rw [spec_dsz, opField_clear_of_zero (by decide)]; exact intSizeOf_inv _
  · rw [spec_reserved, opField_clear_of_ones (by decide)]; rfl
  · rw [spec_cc, opField_clear_of_zero (by decide)]; rfl
  · rw [spec_type, opField_clear_of_zero (by decide)]
  · rw [spec_format, opField_clear_of_zero (by decide)]
    exact ((opField_top3_eq_iff w 0b10#2 true).2 ⟨top, bit35⟩).symm

theorem limmWord_of_fields {w : OpWord} (top : opField w 36 2 = 0b11#2) :
    limmWord (opField w 17 4) (opField w 21 15 ++ opField w 0 17) = w := by
  refine eq_of_opField (opField_glue (n := 17) ?_ (opField_glue (n := 4) ?_ (opField_glue (n := 15) (m := 2) ?_ ?_)))
  · rw [limm_lo]
    exact (field_lo _ _ (by decide)).trans (field_self _)
  · rw [limm_dest]
  · rw [limm_hi]
    exact (field_hi _ _ (by decide)).trans (field_self _)
  · rw [limm_format, top]

theorem unassigned_of_fields {w : OpWord} (top : opField w 36 2 = 0b00#2) (row : opField w 31 5 = 0b11011#5) :
    0b00#2 ++ 0b11011#5 ++ opField w 0 31 = w := by
  refine eq_of_opField (opField_glue (n := 31) ?_ (opField_glue (n := 5) (m := 2) ?_ ?_))
  · exact (field_lo _ _ (by decide)).trans (field_self _)
  · exact ((field_hi _ _ (by decide)).trans ((field_lo _ _ (by decide)).trans (field_self _))).trans row.symm
  · exact ((field_hi _ _ (by decide)).trans ((field_hi _ _ (by decide)).trans (field_self _))).trans top.symm

theorem noFormat_of_fields {w : OpWord} (top : opField w 36 2 = 0b10#2) (bit35 : w.getLsbD 35 = false) :
    0b100#3 ++ opField w 0 35 = w := by
  refine eq_of_opField (opField_glue (n := 35) (m := 3) ?_ ?_)
  · exact (field_lo _ _ (by decide)).trans (field_self _)
  · exact ((field_hi _ _ (by decide)).trans (field_self _)).trans
      ((opField_top3_eq_iff w 0b10#2 false).2 ⟨top, bit35⟩).symm

/-- Clearing no bit. -/
theorem and_not_zero (w : OpWord) : w &&& ~~~(0 : OpWord) = w :=
  (congrArg (w &&& ·) BitVec.not_zero).trans BitVec.and_allOnes

/-- Settles O3, by the format of the word. -/
theorem encodeDecode : Obligations.EncodeDecode := by
  intro w i h
  cases fieldsGive_of_decode h with
  | unassigned top row =>
    rw [ignoredBits_unassigned top row, and_not_zero]
    exact unassigned_of_fields top row
  | regOp dsz top row size =>
    have h27 : (opField w 31 5).toNat ≠ 27 := fun e => row (BitVec.eq_of_toNat_eq e)
    rw [encode_regOpOf _ _ _ _ (opField w 31 5).isLt h27, BitVec.ofNat_toNat, BitVec.setWidth_eq]
    exact regWord_of_fields top row size
  | ldSt seg top size segment =>
    rw [encode_ldStOf _ _ _ (opField w 32 4).isLt, BitVec.ofNat_toNat, BitVec.setWidth_eq]
    exact ldStWord_of_fields top segment
  | specOp top bit35 =>
    rw [encode_specOpOf]
    exact specWord_of_fields top bit35
  | noFormat top bit35 =>
    have ignored : ignoredBits w = 0 := by
      rw [ignoredBits_spec top, bit35]
      rfl
    rw [ignored, and_not_zero]
    exact noFormat_of_fields top bit35
  | limm top =>
    rw [ignoredBits_limm top, and_not_zero]
    exact limmWord_of_fields top

/-! ### Words that agree but for ignored bits -/

/-- The Op of a row whose Ext is not read does not depend on it. -/
theorem regOpOf_ext_unread {n : Nat} (t0 : Bool) (ext ext' : Ext4) (o : RegOperands)
    (h : n ≠ 19 ∧ n ≠ 24 ∧ n ≠ 26 ∧ n ≠ 29) : regOpOf n t0 false ext o = regOpOf n t0 false ext' o := by
  have unread : ∀ e : Ext4, statusOf false e = none := fun _ => rfl
  unfold regOpOf
  simp only [unread]
  split
  case h_20 | h_25 | h_27 | h_29 => simp at h
  all_goals rfl

theorem not_number_of_numRow {row : BitVec 5} (h : numRow row = false) :
    row.toNat ≠ 19 ∧ row.toNat ≠ 24 ∧ row.toNat ≠ 26 ∧ row.toNat ≠ 29 := by
  revert row
  decide

/-- What a word of the RegOp format is decoded from. -/
theorem decodeRegOp_congr {w v : OpWord} (row : opField w 31 5 ≠ 0b11011#5)
    (agree : ∀ {lo n : Nat}, opField (regOpIgnored (w.getLsbD 8) (w.getLsbD 9 || numRow (opField w 31 5))) lo n = 0 →
      opField v lo n = opField w lo n) : decodeRegOp v = decodeRegOp w := by
  have same : ∀ {lo n : Nat}, (∀ b c : Bool, opField (regOpIgnored b c) lo n = 0) → opField v lo n = opField w lo n :=
    fun h => agree (h _ _)
  have sameBit : ∀ {i : Nat}, (∀ b c : Bool, opField (regOpIgnored b c) i 1 = 0) → v.getLsbD i = w.getLsbD i :=
    fun h => by rw [getLsbD_field, getLsbD_field w, same h]
  have src2 : src2Of v = src2Of w := by
    unfold src2Of
    rw [sameBit (i := 8) (by decide), same (lo := 0) (n := 5) (by decide)]
    cases h8 : w.getLsbD 8
    · rfl
    · have imm : opField v 0 8 = opField w 0 8 := agree (by
        rw [h8]
        cases w.getLsbD 9 || numRow (opField w 31 5) <;> decide)
      rw [imm]
  have ops : ∀ z, regOperandsOf v z = regOperandsOf w z := fun z => by
    unfold regOperandsOf
    rw [src2, sameBit (i := 25) (by decide), same (lo := 17) (by decide), same (lo := 12) (by decide)]
  have op : ∀ z, regOpOf (opField w 31 5).toNat (w.getLsbD 30) (w.getLsbD 9) (opField v 26 4) (regOperandsOf w z) =
      regOpOf (opField w 31 5).toNat (w.getLsbD 30) (w.getLsbD 9) (opField w 26 4) (regOperandsOf w z) := fun z => by
    cases hr : w.getLsbD 9 || numRow (opField w 31 5)
    · obtain ⟨h9, hn⟩ := Bool.or_eq_false_iff.mp hr
      rw [h9]
      exact regOpOf_ext_unread _ _ _ _ (not_number_of_numRow hn)
    · have ext : opField v 26 4 = opField w 26 4 := agree (by
        rw [hr]
        cases w.getLsbD 8 <;> decide)
      rw [ext]
  unfold decodeRegOp
  rw [same (lo := 31) (by decide), same (lo := 22) (by decide), sameBit (i := 30) (by decide),
    sameBit (i := 9) (by decide), if_neg row, if_neg row]
  simp only [ops, op]

theorem decodeLdSt_congr {w v : OpWord}
    (agree : ∀ {lo n : Nat}, opField (if w.getLsbD 16 then 0x0000000FF0#38 else 0) lo n = 0 →
      opField v lo n = opField w lo n) : decodeLdSt v = decodeLdSt w := by
  have same : ∀ {lo n : Nat}, (∀ b : Bool, opField (if b then 0x0000000FF0#38 else 0) lo n = 0) →
      opField v lo n = opField w lo n := fun h => agree (h _)
  have disp : dispOf v = dispOf w := by
    unfold dispOf
    rw [getLsbD_field, same (by decide), ← getLsbD_field]
    cases h16 : w.getLsbD 16
    · have disp8 : opField v 4 8 = opField w 4 8 := agree (by rw [h16]; decide)
      rw [disp8]
    · rfl
  have address : ∀ seg, addressOf v seg = addressOf w seg := fun seg => by
    unfold addressOf
    rw [disp, same (lo := 30) (by decide), same (lo := 24) (by decide), same (lo := 12) (by decide),
      same (lo := 0) (by decide)]
  unfold decodeLdSt
  rw [same (lo := 32) (by decide), same (lo := 22) (by decide), same (lo := 26) (by decide),
    same (lo := 17) (by decide)]
  simp only [address]

theorem specOperandsOf_congr {w v : OpWord}
    (agree : ∀ {lo n : Nat}, opField 0x0003000000#38 lo n = 0 → opField v lo n = opField w lo n) :
    specOperandsOf v = specOperandsOf w := by
  unfold specOperandsOf
  rw [agree (lo := 26) (by decide), agree (lo := 22) (by decide), agree (lo := 17) (by decide),
    agree (lo := 0) (by decide)]

/-- No word has bit 37 or 36 among its ignored bits. -/
theorem ignoredBits_format (w : OpWord) : opField (ignoredBits w) 36 2 = 0 := by
  have reg : ∀ b c : Bool, opField (regOpIgnored b c) 36 2 = 0 := by decide
  have ldSt : ∀ b : Bool, opField (if b then 0x0000000FF0#38 else 0) 36 2 = 0 := by decide
  have spec : ∀ b : Bool, opField (if b then 0x0003000000#38 else 0) 36 2 = 0 := by decide
  rcases twoBits_cases (opField w 36 2) with top | top | top | top
  · by_cases row : opField w 31 5 = 0b11011#5
    · rw [ignoredBits_unassigned top row]
      rfl
    · rw [ignoredBits_regOp top row]
      exact reg _ _
  · rw [ignoredBits_ldSt top]
    exact ldSt _
  · rw [ignoredBits_spec top]
    exact spec _
  · rw [ignoredBits_limm top]
    rfl

theorem eq_of_no_ignored {w v : OpWord} (h : v &&& ~~~(ignoredBits w) = w &&& ~~~(ignoredBits w))
    (clear : ignoredBits w = 0) : v = w := by
  rwa [clear, and_not_zero, and_not_zero] at h

/-- Settles O4: no field the decoder reads holds an ignored bit. -/
theorem ignoredBitsIgnored : Obligations.IgnoredBitsIgnored := by
  intro w v h
  have top' := opField_agree h (ignoredBits_format w)
  have fields : decodeFields v = decodeFields w := by
    rcases twoBits_cases (opField w 36 2) with top | top | top | top
    · by_cases row : opField w 31 5 = 0b11011#5
      · rw [eq_of_no_ignored h (ignoredBits_unassigned top row)]
      · unfold decodeFields
        rw [top', top]
        exact decodeRegOp_congr row fun hz => opField_agree h (by rwa [ignoredBits_regOp top row])
    · unfold decodeFields
      rw [top', top]
      exact decodeLdSt_congr fun hz => opField_agree h (by rwa [ignoredBits_ldSt top])
    · cases bit35 : w.getLsbD 35
      · have clear : ignoredBits w = 0 := by
          rw [ignoredBits_spec top, bit35]
          rfl
        rw [eq_of_no_ignored h clear]
      · have ignored : ignoredBits w = 0x0003000000#38 := by
          rw [ignoredBits_spec top, bit35]
          rfl
        have agree : ∀ {lo n : Nat}, opField 0x0003000000#38 lo n = 0 → opField v lo n = opField w lo n :=
          fun hz => opField_agree h (by rwa [ignored])
        have bit35' : v.getLsbD 35 = w.getLsbD 35 := by
          rw [getLsbD_field, agree (by decide), ← getLsbD_field]
        unfold decodeFields
        rw [top', top, bit35', bit35, agree (lo := 31) (by decide), specOperandsOf_congr agree]
        rfl
    · rw [eq_of_no_ignored h (ignoredBits_limm top)]
  unfold decode
  rw [fields]

end Sys2Proof.Proofs
end

section
/-! PROOFS. The codes of a decoded Op: the Type codes (O6), the field codes (O8), the words of 95_test_vectors.md (O1),
and the verdicts on encodings without a meaning (O9, O60). -/

namespace Sys2Proof.Proofs
open Sys2Proof.Machine Sys2Proof.Laws

/-! ### The Type codes -/

/-- Neighbouring fields as one. -/
theorem opField_append {w : OpWord} {lo n m : Nat} {x : BitVec m} {y : BitVec n} (high : opField w (lo + n) m = x)
    (low : opField w lo n = y) : opField w lo (m + n) = x ++ y := by
  rw [← high, ← low]
  exact (BitVec.extractLsb'_append_extractLsb'_eq_extractLsb' rfl).symm

theorem eq_ofNat_of_toNat {n k : Nat} {x : BitVec n} (h : x.toNat = k) : x = BitVec.ofNat n k := by
  rw [← h, BitVec.ofNat_toNat, BitVec.setWidth_eq]

theorem brcond_type {x : BitVec 4} (h : x.toNat < 4) : 0b101#3 ++ x = 0b10100#5 ++ x.extractLsb' 0 2 := by
  revert x
  decide

theorem fault_type {x : BitVec 4} (h : 12 ≤ x.toNat) : 0b101#3 ++ x = 0b10111#5 ++ x.extractLsb' 0 2 := by
  revert x
  decide

/-- The 1-byte size of a RegOp is the code 000 (30_encoding.md R190). -/
theorem regSizeOf_one_iff {c : BitVec 3} {z : RegSize} (h : regSizeOf c = some z) : z = .one ↔ c = 0b000#3 := by
  rw [← regSizeOf_inv h]
  cases z <;> simp [RegSize.code]

theorem num5_of_fields (w : OpWord) :
    num5 (w.getLsbD 30) (opField w 26 4) = w.extractLsb' 30 1 ++ w.extractLsb' 26 4 :=
  congrArg (· ++ opField w 26 4) (opField_one w 30).symm

/-- Settles O6, row by row of each format. -/
theorem typeCodes : Obligations.TypeCodes := by
  intro w i h
  cases fieldsGive_of_decode h with
  | unassigned top row => exact opField_append (lo := 31) top row
  | limm top => exact top
  | noFormat top bit35 => exact (opField_top3_eq_iff w 0b10#2 false).2 ⟨top, bit35⟩
  | ldSt seg top size segment =>
    have type6 := opField_append (lo := 32) top (eq_ofNat_of_toNat (x := opField w 32 4) rfl)
    have bound := (opField w 32 4).isLt
    generalize (opField w 32 4).toNat = n at type6 bound
    fun_cases ldStOf n (addressOf w seg) (opField w 22 2) (opField w 17 5)
    case case16 =>
      obtain rfl : n = 15 := by
        simp only [imp_false] at *
        omega
      exact type6
    all_goals exact type6
  | specOp top bit35 =>
    have type7 : opField w 31 7 = 0b101#3 ++ opField w 31 4 :=
      opField_append (n := 4) ((opField_top3_eq_iff w 0b10#2 true).2 ⟨top, bit35⟩) rfl
    fun_cases specOpOf (opField w 31 4) (specOperandsOf w)
    case case9 => exact type7.trans (brcond_type (by assumption))
    case case10 =>
      refine type7.trans (fault_type ?_)
      simp only [imp_false] at *
      omega
    all_goals
      rename_i code
      exact type7.trans (congrArg (0b101#3 ++ ·) (eq_ofNat_of_toNat code))
  | regOp dsz top row size =>
    have row5 := eq_ofNat_of_toNat (x := opField w 31 5) rfl
    have bound := (opField w 31 5).isLt
    have assigned : (opField w 31 5).toNat ≠ 27 := fun e => row (BitVec.eq_of_toNat_eq e)
    generalize (opField w 31 5).toNat = n at row5 bound assigned
    have row7 := opField_append (lo := 31) top row5
    have type8 := opField_append (lo := 30) row7 (opField_one w 30)
    have on : w.getLsbD 30 = true → opField w 30 8 = 0b00#2 ++ BitVec.ofNat 5 n ++ 1#1 := fun e => by
      rw [type8, e]
      rfl
    have off : ¬w.getLsbD 30 = true → opField w 30 8 = 0b00#2 ++ BitVec.ofNat 5 n ++ 0#1 := fun e => by
      rw [type8, Bool.eq_false_iff.2 e]
      rfl
    have byte := regSizeOf_one_iff size
    fun_cases regOpOf n (w.getLsbD 30) (w.getLsbD 9) (opField w 26 4) (regOperandsOf w dsz)
    case case15 | case17 =>
      exact ⟨type8, byte.mp (by assumption)⟩
    case case16 | case18 | case25 =>
      exact ⟨type8, mt byte.mpr (by assumption)⟩
    case case23 =>
      exact ⟨on (by assumption), byte.mp (by assumption)⟩
    case case24 =>
      exact ⟨off (by assumption), byte.mp (by assumption)⟩
    case case26 | case35 | case38 | case41 => exact ⟨row7, num5_of_fields w⟩
    case case19 | case21 | case27 | case29 | case31 | case33 | case36 | case39 | case42 =>
      exact on (by assumption)
    case case20 | case22 | case28 | case30 | case32 | case34 | case37 | case40 | case43 =>
      exact off (by assumption)
    case case44 =>
      obtain rfl : n = 31 := by
        simp only [imp_false] at *
        omega
      exact on (by assumption)
    case case45 =>
      obtain rfl : n = 31 := by
        simp only [imp_false] at *
        omega
      exact off (by assumption)
    all_goals exact type8

/-! ### The fields of the Op of a row -/

theorem isSome_statusOf (ss : Bool) (ext : Ext4) : (statusOf ss ext).isSome = ss := by
  cases ss <;> rfl

theorem eq_ext_of_statusOf {ss : Bool} {ext e : Ext4} (h : statusOf ss ext = some e) : e = ext := by
  cases ss
  · cases h
  · exact (Option.some.inj h).symm

theorem regForm_regOpOf {n : Nat} {t0 ss : Bool} {ext : Ext4} {o : RegOperands} {f : RegForm}
    (h : regForm (regOpOf n t0 ss ext o) = some f) : f.ss = ss := by
  revert h
  fun_cases regOpOf n t0 ss ext o
  case case18 | case39 | case40 | case42 | case43 | case44 | case45 => exact fun h => nomatch h
  case case26 | case35 | case38 | case41 => rintro ⟨⟩; rfl
  all_goals
    rintro ⟨⟩
    exact isSome_statusOf ss ext

theorem statusField_regOpOf {n : Nat} {t0 ss : Bool} {ext e : Ext4} {o : RegOperands}
    (h : statusField (regOpOf n t0 ss ext o) = some e) : e = ext := by
  revert h
  fun_cases regOpOf n t0 ss ext o
  case case1 | case2 | case3 | case4 | case5 | case6 | case7 | case8 => exact eq_ext_of_statusOf
  all_goals exact fun h => nomatch h

/-- A RegOp has no field of another format. -/
theorem otherFields_regOpOf (n : Nat) (t0 ss : Bool) (ext : Ext4) (o : RegOperands) :
    ldStData (regOpOf n t0 ss ext o) = none ∧ intSizeField (regOpOf n t0 ss ext o) = none ∧
      fpSizeField (regOpOf n t0 ss ext o) = none := by
  fun_cases regOpOf n t0 ss ext o <;> exact ⟨rfl, rfl, rfl⟩

/-- The data register of an LdStOp, its size by Table 2.25 or 2.26, and no field of another format. -/
theorem fields_ldStOf (n : Nat) (a : Address) (z : BitVec 2) (d : RegNum) :
    ldStData (ldStOf n a z d) = some d ∧ (∀ x, intSizeField (ldStOf n a z d) = some x → x = intSizeOf z) ∧
      (∀ x, fpSizeField (ldStOf n a z d) = some x → x = fpSizeOf z) ∧ regForm (ldStOf n a z d) = none ∧
      statusField (ldStOf n a z d) = none := by
  fun_cases ldStOf n a z d <;> simp [ldStData, intSizeField, fpSizeField, regForm, statusField]

/-- The size of a SpecOp, and no field of another format. -/
theorem fields_specOpOf (type : BitVec 4) (o : SpecOperands) :
    intSizeField (specOpOf type o) = some o.dsz ∧ ldStData (specOpOf type o) = none ∧
      fpSizeField (specOpOf type o) = none ∧ regForm (specOpOf type o) = none ∧
      statusField (specOpOf type o) = none := by
  fun_cases specOpOf type o <;> exact ⟨rfl, rfl, rfl, rfl, rfl⟩

/-! ### The fields of a decoded Op -/

theorem regOperands_of_decode {w : OpWord} {i : Instr} {o : RegOperands} (h : decode w = .ok i)
    (ho : regOperands i = some o) : ∃ dsz, regSizeOf (opField w 22 3) = some dsz ∧ o = regOperandsOf w dsz := by
  have t := (opField_format_of_decode h).trans (formatCode_of_regOperands (by simp [ho]))
  cases fieldsGive_of_decode h with
  | regOp dsz _ _ size =>
    rw [regOperands_regOpOf] at ho
    exact ⟨dsz, size, (Option.some.inj ho).symm⟩
  | unassigned => cases ho
  | ldSt _ top _ _ | specOp top _ | noFormat top _ | limm top => simp [top] at t

theorem ldStAddress_of_decode {w : OpWord} {i : Instr} {a : Address} (h : decode w = .ok i)
    (ha : ldStAddress i = some a) : ∃ seg, segCodeOf (opField w 26 4) = some seg ∧ a = addressOf w seg := by
  have t := (opField_format_of_decode h).trans (formatCode_of_ldStAddress (by simp [ha]))
  cases fieldsGive_of_decode h with
  | ldSt seg _ _ segment =>
    rw [ldStAddress_ldStOf] at ha
    exact ⟨seg, segment, (Option.some.inj ha).symm⟩
  | unassigned top _ | regOp _ top _ _ | specOp top _ | noFormat top _ | limm top => simp [top] at t

theorem specOperands_of_decode {w : OpWord} {i : Instr} {o : SpecOperands} (h : decode w = .ok i)
    (ho : specOperands i = some o) : o = specOperandsOf w := by
  have t := (opField_format_of_decode h).trans (formatCode_of_specOperands (by simp [ho]))
  cases fieldsGive_of_decode h with
  | specOp =>
    rw [specOperands_specOpOf] at ho
    exact (Option.some.inj ho).symm
  | noFormat => cases ho
  | unassigned top _ | regOp _ top _ _ | ldSt _ top _ _ | limm top => simp [top] at t

theorem regForm_ss_of_decode {w : OpWord} {i : Instr} {f : RegForm} (h : decode w = .ok i)
    (hf : regForm i = some f) : f.ss = w.getLsbD 9 := by
  cases fieldsGive_of_decode h with
  | regOp => exact regForm_regOpOf hf
  | ldSt => simp [fields_ldStOf] at hf
  | specOp => simp [fields_specOpOf] at hf
  | unassigned | noFormat | limm => cases hf

theorem statusField_of_decode {w : OpWord} {i : Instr} {ext : Ext4} (h : decode w = .ok i)
    (hf : statusField i = some ext) : ext = opField w 26 4 := by
  cases fieldsGive_of_decode h with
  | regOp => exact statusField_regOpOf hf
  | ldSt => simp [fields_ldStOf] at hf
  | specOp => simp [fields_specOpOf] at hf
  | unassigned | noFormat | limm => cases hf

theorem ldStData_of_decode {w : OpWord} {i : Instr} {d : RegNum} (h : decode w = .ok i)
    (hd : ldStData i = some d) : d = opField w 17 5 := by
  cases fieldsGive_of_decode h with
  | regOp => simp [otherFields_regOpOf] at hd
  | ldSt => simpa [fields_ldStOf, eq_comm] using hd
  | specOp => simp [fields_specOpOf] at hd
  | unassigned | noFormat | limm => cases hd

theorem intSizeField_of_decode {w : OpWord} {i : Instr} {z : IntSize} (h : decode w = .ok i)
    (hz : intSizeField i = some z) : z = intSizeOf (opField w 22 2) := by
  cases fieldsGive_of_decode h with
  | regOp => simp [otherFields_regOpOf] at hz
  | ldSt =>
    obtain ⟨-, int, -⟩ := fields_ldStOf (opField w 32 4).toNat (addressOf w _) (opField w 22 2) (opField w 17 5)
    exact int z hz
  | specOp =>
    rw [(fields_specOpOf _ _).1] at hz
    exact (Option.some.inj hz).symm
  | unassigned | noFormat | limm => cases hz

theorem fpSizeField_of_decode {w : OpWord} {i : Instr} {z : FpSize} (h : decode w = .ok i)
    (hz : fpSizeField i = some z) : z = fpSizeOf (opField w 22 2) := by
  cases fieldsGive_of_decode h with
  | regOp => simp [otherFields_regOpOf] at hz
  | ldSt =>
    obtain ⟨-, -, fp, -⟩ := fields_ldStOf (opField w 32 4).toNat (addressOf w _) (opField w 22 2) (opField w 17 5)
    exact fp z hz
  | specOp => simp [fields_specOpOf] at hz
  | unassigned | noFormat | limm => cases hz

/-! ### Verdicts -/

/-- A word is refused by the verdict on its fields. -/
theorem decode_error_of_fields {w : OpWord} {v : Illegal} (h : decodeFields w = .error v) :
    decode w = .error v := by
  simp only [decode, h]

theorem decodeFields_regOp {w : OpWord} (top : opField w 36 2 = 0b00#2) : decodeFields w = decodeRegOp w := by
  unfold decodeFields
  rw [top]
  rfl

theorem decodeFields_ldSt {w : OpWord} (top : opField w 36 2 = 0b01#2) : decodeFields w = decodeLdSt w := by
  unfold decodeFields
  rw [top]
  rfl

theorem decode_regOp_dsz {w : OpWord} (top : opField w 36 2 = 0b00#2) (row : opField w 31 5 ≠ 0b11011#5)
    (size : regSizeOf (opField w 22 3) = none) : decode w = .error .dsz := by
  refine decode_error_of_fields ((decodeFields_regOp top).trans ?_)
  simp only [decodeRegOp, if_neg row, size]

theorem decodeFields_regOp_ok {w : OpWord} {dsz : RegSize} (top : opField w 36 2 = 0b00#2)
    (row : opField w 31 5 ≠ 0b11011#5) (size : regSizeOf (opField w 22 3) = some dsz) :
    decodeFields w = .ok (regOpOf (opField w 31 5).toNat (w.getLsbD 30) (w.getLsbD 9) (opField w 26 4)
      (regOperandsOf w dsz)) := by
  refine (decodeFields_regOp top).trans ?_
  simp only [decodeRegOp, if_neg row, size]

theorem decode_ldSt_dsz {w : OpWord} (top : opField w 36 2 = 0b01#2)
    (size : needsDsz (opField w 32 4) = true ∧ opField w 22 2 = 0b00#2) : decode w = .error .dsz := by
  refine decode_error_of_fields ((decodeFields_ldSt top).trans ?_)
  simp only [decodeLdSt, if_pos size]

theorem decode_ldSt_seg {w : OpWord} (top : opField w 36 2 = 0b01#2)
    (size : ¬(needsDsz (opField w 32 4) = true ∧ opField w 22 2 = 0b00#2))
    (segment : segCodeOf (opField w 26 4) = none) : decode w = .error .seg := by
  refine decode_error_of_fields ((decodeFields_ldSt top).trans ?_)
  simp only [decodeLdSt, if_neg size, segment]

theorem decodeFields_ldSt_ok {w : OpWord} {seg : SegCode} (top : opField w 36 2 = 0b01#2)
    (size : ¬(needsDsz (opField w 32 4) = true ∧ opField w 22 2 = 0b00#2))
    (segment : segCodeOf (opField w 26 4) = some seg) :
    decodeFields w = .ok (ldStOf (opField w 32 4).toNat (addressOf w seg) (opField w 22 2) (opField w 17 5)) := by
  refine (decodeFields_ldSt top).trans ?_
  simp only [decodeLdSt, if_neg size, segment]

/-- The rows that have no 1-byte form (41_regops.md R264 to R266). -/
def wideRows : List (BitVec 5) :=
  [0b01010#5, 0b01011#5, 0b10000#5, 0b10001#5, 0b10011#5, 0b10100#5, 0b10101#5, 0b10110#5, 0b10111#5, 0b11000#5,
    0b11001#5, 0b11010#5, 0b11100#5, 0b11101#5, 0b11110#5, 0b11111#5]

theorem illegality_wideRow {row : BitVec 5} (h : row ∈ wideRows) (t0 ss : Bool) (ext : Ext4) {o : RegOperands}
    (size : o.dsz = .one) : (regOpOf row.toNat t0 ss ext o).illegality = some .byteSize := by
  have byte : byteIllegality o.dsz = some .byteSize := by rw [size]; rfl
  simp only [wideRows, List.mem_cons, List.not_mem_nil, or_false] at h
  rcases h with rfl | rfl | rfl | rfl | rfl | rfl | rfl | rfl | rfl | rfl | rfl | rfl | rfl | rfl | rfl | rfl <;>
    cases t0 <;> exact byte

theorem needsDsz_iff (type : BitVec 4) : needsDsz type = true ↔ type ∈ [0b0011#4, 0b0100#4, 0b0111#4, 0b1011#4] := by
  simp [needsDsz]

theorem mmIllegality_mmReg {z : FpSize} {d : RegNum} (size : z ≠ .fpDSize) (low : 9 ≤ d.toNat)
    (high : d.toNat ≤ 23) : mmIllegality z d = some .mmReg := by
  have number : mmNumberOk d = false := by
    simp only [mmNumberOk, Bool.or_eq_false_iff, decide_eq_false_iff_not]
    omega
  simp [mmIllegality, size, number]

theorem fpSizeOf_ne_fpDSize {c : BitVec 2} (h : c ≠ 0b00#2) : fpSizeOf c ≠ .fpDSize := by
  intro e
  exact h (by rw [← fpSizeOf_inv c, e]; rfl)

/-- Settles O9, verdict by verdict. -/
theorem illegalEncodings : Obligations.IllegalEncodings := by
  intro w
  refine ⟨fun top row code => ?_, fun top code row => ?_, fun top code type => ?_, fun top code free => ?_,
    fun top code size type low high => ?_⟩
  · refine decode_regOp_dsz top row ?_
    have bits : opField w 22 3 = 0b11#2 ++ opField w 22 1 := opField_append (n := 1) code rfl
    rw [bits]
    generalize opField w 22 1 = b
    revert b
    decide
  · have unassigned : opField w 31 5 ≠ 0b11011#5 := by
      intro e
      rw [show w.extractLsb' 31 5 = _ from e] at row
      revert row
      decide
    have size : regSizeOf (opField w 22 3) = some .one := by
      rw [show opField w 22 3 = _ from code]
      rfl
    exact decode_illegal (decodeFields_regOp_ok top unassigned size) (illegality_wideRow row _ _ _ rfl)
  · exact decode_ldSt_dsz top ⟨(needsDsz_iff _).2 type, code⟩
  · refine decode_ldSt_seg top (fun c => free ⟨c.2, (needsDsz_iff _).1 c.1⟩) ?_
    rw [show opField w 26 4 = _ from code]
    rfl
  · have segment : ∃ seg, segCodeOf (opField w 26 4) = some seg := by
      have key : ∀ c : BitVec 4, c ≠ 0b0111#4 → (segCodeOf c).isSome := by decide
      exact Option.isSome_iff_exists.1 (key _ code)
    obtain ⟨seg, segment⟩ := segment
    refine decode_illegal (decodeFields_ldSt_ok top (fun c => size c.2) segment) ?_
    have mm := mmIllegality_mmReg (fpSizeOf_ne_fpDSize size) low high
    simp only [List.mem_cons, List.not_mem_nil, or_false] at type
    rcases type with type | type | type <;> rw [show opField w 32 4 = _ from type] <;> exact mm

/-! ### The values of the field codes -/

theorem regSizeOf_values {c : BitVec 3} {z : RegSize} (e : Env) (h : regSizeOf c = some z) :
    ∀ p ∈ [(0b000#3, Size.one), (0b001#3, .two), (0b010#3, .four), (0b011#3, e.dsize.size),
      (0b100#3, e.asize.size), (0b101#3, e.ssize.size)], c = p.1 → regSize e z = p.2 := by
  rw [← regSizeOf_inv h]
  cases z <;> simp [RegSize.code, regSize]

theorem segCodeOf_values {c : BitVec 4} {x : SegCode} (e : Env) (h : segCodeOf c = some x) :
    ∀ p ∈ [(0b0000#4, Seg.es), (0b0001#4, .cs), (0b0010#4, .ss), (0b0011#4, .ds), (0b0100#4, .fs), (0b0101#4, .gs),
      (0b0110#4, .hs), (0b1000#4, .ts0), (0b1001#4, .ts1), (0b1010#4, .ls), (0b1011#4, .ms), (0b1100#4, e.os.seg),
      (0b1101#4, e.os.seg), (0b1110#4, e.os.seg), (0b1111#4, e.os.seg)], c = p.1 → segOf e x = p.2 := by
  rw [← segCodeOf_inv h]
  cases x with
  | os low => rcases twoBits_cases low with rfl | rfl | rfl | rfl <;> simp [SegCode.code, segOf]
  | _ => simp [SegCode.code, segOf]

theorem addrSizeOf_values (c : BitVec 2) (e : Env) :
    ∀ p ∈ [(0b00#2, e.asize), (0b01#2, e.ssize), (0b10#2, EnvSize.four), (0b11#2, e.dsize)],
      c = p.1 → addrSize e (addrSizeOf c) = p.2 := by
  rcases twoBits_cases c with rfl | rfl | rfl | rfl <;> simp [addrSizeOf, addrSize]

theorem intSizeOf_values (c : BitVec 2) (e : Env) :
    ∀ p ∈ [(0b00#2, Size.one), (0b01#2, .two), (0b10#2, .four), (0b11#2, e.dsize.size)],
      c = p.1 → intSize e (intSizeOf c) = p.2 := by
  rcases twoBits_cases c with rfl | rfl | rfl | rfl <;> simp [intSizeOf, intSize]

theorem fpSizeOf_values (c : BitVec 2) :
    ∀ p ∈ [(0b00#2, (none : Option Nat)), (0b01#2, some 2), (0b10#2, some 4), (0b11#2, some 8)],
      c = p.1 → fpBytes (fpSizeOf c) = p.2 := by
  rcases twoBits_cases c with rfl | rfl | rfl | rfl <;> simp [fpSizeOf, fpBytes]

/-- Settles O8: each field of the Op is the field of the word, and each code stands for the value of its table. -/
theorem fieldCodes : Obligations.FieldCodes := by
  intro w e
  refine ⟨fun top row code => decode_regOp_dsz top row ?_, fun i h => ⟨?_, fun f => regForm_ss_of_decode h,
    fun ext => statusField_of_decode h, ?_, fun d => ldStData_of_decode h, ?_, ?_, ?_⟩⟩
  · rcases code with code | code <;> rw [show opField w 22 3 = _ from code] <;> rfl
  · intro o ho
    obtain ⟨dsz, size, rfl⟩ := regOperands_of_decode h ho
    exact ⟨regSizeOf_values e size, rfl, rfl, rfl, rfl⟩
  · intro a ha
    obtain ⟨seg, segment, rfl⟩ := ldStAddress_of_decode h ha
    refine ⟨segCodeOf_values e segment, fun code => ?_, addrSizeOf_values _ e, rfl, rfl, rfl⟩
    rw [show opField w 26 4 = _ from code] at segment
    cases segment
  · intro z hz
    rw [intSizeField_of_decode h hz]
    exact intSizeOf_values _ e
  · intro z hz
    rw [fpSizeField_of_decode h hz]
    exact fpSizeOf_values _
  · intro o ho
    rw [specOperands_of_decode h ho]
    exact ⟨rfl, rfl, rfl⟩

/-! ### Words of the spec, and the reserved rows -/

/-- Settles O1. -/
theorem specWordsDecode : Obligations.SpecWordsDecode := by
  refine ⟨?_, ?_, ?_, ?_, ?_⟩ <;> decide

/-- Settles O60: both decode to their own Op, which `exec` refuses. -/
theorem reservedRowsRefused : Obligations.ReservedRowsRefused := by
  intro s w hw
  constructor
  · intro code
    obtain ⟨top, bit35⟩ := (opField_top3_eq_iff w 0b10#2 false).1 code
    exact step_of_decode_ok hw (decode_noFormat top bit35)
  · intro code
    have split : opField w 36 2 ++ opField w 31 5 = 0b00#2 ++ 0b11011#5 :=
      (opField_append (lo := 31) (w := w) rfl rfl).symm.trans code
    have top : opField w 36 2 = 0b00#2 := by
      have := congrArg (fun x => x.extractLsb' 5 2) split
      exact ((field_hi _ _ (by decide)).trans (field_self _)).symm.trans this
    have row : opField w 31 5 = 0b11011#5 := by
      have := congrArg (fun x => x.extractLsb' 0 5) split
      exact ((field_lo _ _ (by decide)).trans (field_self _)).symm.trans this
    exact step_of_decode_ok hw (decode_unassigned top row)

end Sys2Proof.Proofs
end

section
/-! PROOFS. Which Ops raise which faults (O21), and the general registers by name and size (O22 to O24, O46). -/

namespace Sys2Proof.Proofs
open Sys2Proof.Machine Sys2Proof.Laws

/-! ### Faults -/

/-- A fault of an access at `pc` (60_exceptions.md R412). -/
inductive AccessFault (pc : Nat) : Fault → Prop where
  | segFault (seg : Seg) (ea : Word) : AccessFault pc (.segFault seg ea pc)
  | pageFault (ea : Word) (kind : AccessKind) : AccessFault pc (.pageFault ea kind pc)
  | stuck (p : Nat) : AccessFault pc (.stuck p pc)

/-- Where a fault of an Op comes from. -/
inductive FaultOrigin (s : State) : Instr → Fault → Prop where
  | raised (low : BitVec 2) (o : SpecOperands) : FaultOrigin s (.fault low o) (.opFault o.imm17 low s.pc)
  | access {i : Instr} {f : Fault} (fault : AccessFault s.pc f) (data : (dataAccess i s).isSome = true) :
    FaultOrigin s i f
  | cda {a : Address} {sz : IntSize} {d : RegNum} {f : Fault} (fault : AccessFault s.pc f)
    (running : ∀ p pc, f ≠ .stuck p pc) : FaultOrigin s (.cda a sz d) f
  | cdaf {a : Address} {sz : FpSize} {d : RegNum} {f : Fault} (fault : AccessFault s.pc f)
    (running : ∀ p pc, f ≠ .stuck p pc) : FaultOrigin s (.cdaf a sz d) f
  | cia {a : Address} {sz : IntSize} {d : RegNum} (seg : Seg) (ea : Word) :
    FaultOrigin s (.cia a sz d) (.segFault seg ea s.pc)

/-- A form that only refuses never faults. -/
theorem finish_ne_fault {x : Res State} (h : StopsIn Refuses x) (f : Fault) : finish x ≠ .fault f := by
  intro hf
  obtain ⟨r, e, -⟩ := h _ (finish_fault.mp hf)
  cases e

/-- A form that accesses memory faults with a fault of its access. -/
theorem accessFault_of_finish {pc : Nat} {x : Res State} (h : StopsIn (AccessStop pc) x) {f : Fault}
    (hf : finish x = .fault f) : AccessFault pc f := by
  rcases h _ (finish_fault.mp hf) with ⟨r, e, -⟩ | ⟨seg, ea, e⟩ | ⟨ea, kind, e⟩ | ⟨p, e⟩
  · cases e
  · cases e
    exact .segFault seg ea
  · cases e
    exact .pageFault ea kind
  · cases e
    exact .stuck p

/-- The operands of an MMX load or store only refuse, so that after them a fault is one of the rest. -/
theorem mmOperands_of_fault {s : State} {sz : FpSize} {d : RegNum} {k : Nat × MmSlot → Res State} {f : Fault}
    (h : finish (mmOperands s sz d >>= k) = .fault f) :
    ∃ n r, fpBytes sz = some n ∧ mmSlotOf s.env d = some r ∧ finish (k (n, r)) = .fault f := by
  rcases res_bind_error.mp (finish_fault.mp h) with e | ⟨⟨n, r⟩, hm, e⟩
  · obtain ⟨q, hq, -⟩ := mmOperands_stops s sz d _ e
    cases hq
  · obtain ⟨hn, hr⟩ := mmOperands_ok.mp hm
    exact ⟨n, r, hn, hr, finish_fault.mpr e⟩

theorem fpBytes_eq_eight {sz : FpSize} (h : fpBytes sz = some 8) : sz = .eight := by
  cases sz <;> simp [fpBytes] at h ⊢

/-- An MMX load faults only at 8 bytes and with a register. -/
theorem loadMm_fault {kind : AccessKind} {locked : Bool} {a : Address} {sz : FpSize} {d : RegNum} {s : State}
    {f : Fault} (h : finish (loadMm kind locked a sz d s) = .fault f) :
    sz = .eight ∧ (mmSlotOf s.env d).isSome = true := by
  obtain ⟨n, r, hn, hr, hk⟩ := mmOperands_of_fault h
  rcases res_bind_error.mp (finish_fault.mp hk) with e | ⟨_, h8, -⟩
  · obtain ⟨-, e⟩ := refuseUnless_error.mp e
    cases e
  · obtain rfl : n = 8 := by simpa using refuseUnless_ok.mp h8
    exact ⟨fpBytes_eq_eight hn, by rw [hr]; rfl⟩

/-- Every fault of an Op has one of the origins. -/
theorem exec_fault {i : Instr} {s : State} {f : Fault} (h : exec i s = .fault f) : FaultOrigin s i f := by
  have refuses : ∀ {x : Res State}, StopsIn Refuses x → finish x = .fault f → FaultOrigin s i f :=
    fun hx hf => absurd hf (finish_ne_fault hx f)
  cases i <;> simp only [exec] at h
  case ld | ldst | ldstl => exact .access (accessFault_of_finish (loadInt_stops _ _ _ _ _ s) h) rfl
  case ldm | ldmstl =>
    obtain ⟨rfl, slot⟩ := loadMm_fault h
    exact .access (accessFault_of_finish (loadMm_stops _ _ _ _ _ s) h) (by simp [dataAccess, slot])
  case st | stupd =>
    exact .access (accessFault_of_finish (stopsIn_bind (memWrite_stops s _ _ _ _) fun _ => stopsIn_ok _ _) h) rfl
  case stm =>
    obtain ⟨n, r, hn, hr, hk⟩ := mmOperands_of_fault h
    exact .access (accessFault_of_finish (stopsIn_bind (memWrite_stops s _ _ _ _) fun _ => stopsIn_ok _ _) hk)
      (by simp [dataAccess, hn, hr])
  case cda =>
    refine .cda (accessFault_of_finish (checkAddress_stops _ _ s) h) ?_
    rintro p pc rfl
    exact checkAddress_not_stuck _ _ _ _ _ (finish_fault.mp h)
  case cdaf =>
    unfold execCdaf at h
    split at h
    · cases h
    · refine .cdaf (accessFault_of_finish (checkAddress_stops _ _ s) h) ?_
      rintro p pc rfl
      exact checkAddress_not_stuck _ _ _ _ _ (finish_fault.mp h)
  case cia =>
    rcases res_bind_error.mp (finish_fault.mp h) with e | ⟨-, -, e⟩
    · obtain ⟨-, e⟩ := raiseUnless_error.mp e
      cases e
      exact .cia _ _
    · cases e
  case fault =>
    cases h
    exact .raised _ _
  case add | adc | sub | sbb | inc | dec | cmp => exact refuses (arithOp_stops _ _ _ _ _ s) h
  case or | and | xor => exact refuses (logicOp_stops _ _ _ _ s) h
  case mov => exact refuses (stopsIn_bind (nonByteGuard_stops s _) fun _ => logicOp_stops _ _ _ _ s) h
  case sll | srl | sra => exact refuses (shiftOp_stops _ _ _ _ s) h
  case slc | rlc | src | rrc | sld | rld => exact refuses (freeShiftOp_stops _ _ _ s) h
  case sla => exact refuses (stopsIn_bind (shiftGuard_stops _ _ _ s) fun _ => regopFnOp_stops _ s) h
  case rls | rrs => exact refuses (freeByteShiftOp_stops _ _ _ s) h
  case zext8 | sext8 | zext16 | sext16 => exact refuses (extendOp_stops _ _ _ s) h
  case rdflgs | mul1s | mul1u | muleh | mulel | div1 | div2 | diver | diveq | rdflg | rdseg =>
    exact refuses (freeOp_stops _ _ s) h
  case daa | das => exact refuses (freeByteOp_stops _ _ s) h
  case movcc => exact refuses (movccOp_stops _ _ _ s) h
  case rdxxx => exact refuses (rdxxxOp_stops _ _ _ s) h
  case wrxxx => exact refuses (wrxxxOp_stops _ _ _ s) h
  case bswap => exact refuses (bswapOp_stops _ _ s) h
  case brcond => exact refuses (stopsIn_bind (cond_stops s _) fun _ => stopsIn_ok _ _) h
  case ldk => exact refuses (stopsIn_bind (stopsIn_refuseUnless rfl) fun _ => stopsIn_ok _ _) h
  all_goals cases h

/-- Settles O21, origin by origin. -/
theorem faultSources : Obligations.FaultSources := by
  intro i s f h
  cases exec_fault h with
  | raised low o => exact ⟨rfl, low, o, rfl⟩
  | access fault data =>
    cases fault with
    | segFault | pageFault => exact ⟨rfl, .inl data⟩
    | stuck => exact ⟨rfl, data⟩
  | cda fault running | cdaf fault running =>
    cases fault with
    | segFault | pageFault => exact ⟨rfl, .inr trivial⟩
    | stuck p => exact absurd rfl (running p s.pc)
  | cia => exact ⟨rfl, .inr trivial⟩

/-! ### The storage a register number names -/

theorem slotOf_low (e : Env) {n : RegNum} (h : n.toNat < 24) : (slotOf e n).val = n.toNat := by
  simp [slotOf, h]

theorem slotOf_reg (e : Env) {n : RegNum} (low : 24 ≤ n.toNat) (high : n.toNat ≤ 27) :
    (slotOf e n).val = e.reg.toNat := by
  simp [slotOf, show ¬n.toNat < 24 by omega, show n.toNat < 28 by omega]

theorem slotOf_regm (e : Env) {n : RegNum} (low : 28 ≤ n.toNat) : (slotOf e n).val = e.regm.toNat := by
  simp [slotOf, show ¬n.toNat < 24 by omega, show ¬n.toNat < 28 by omega]

/-- The storage of an x86 register number. -/
theorem slotOf_x86 (e : Env) (x : BitVec 3) : (slotOf e (x.setWidth 5)).val = x.toNat := by
  have h : (x.setWidth 5).toNat = x.toNat := by
    simp
    omega
  rw [slotOf_low e (by omega), h]

theorem byteSlot_low_half {e : Env} {n : RegNum} (h : (slotOf e n).val % 8 < 4) :
    byteSlot e n = slotOf e n ∧ byteIsHigh e n = false := by
  simp only [byteSlot, byteIsHigh, if_pos h, decide_eq_false_iff_not, true_and]
  omega

theorem byteSlot_high_half {e : Env} {n : RegNum} (h : 4 ≤ (slotOf e n).val % 8) :
    (byteSlot e n).val = (slotOf e n).val - 4 ∧ byteIsHigh e n = true := by
  simp only [byteSlot, byteIsHigh, if_neg (show ¬(slotOf e n).val % 8 < 4 by omega), h, decide_true, and_self]

/-- Two numbers of one storage read and write alike. -/
theorem rd_of_slotOf_eq {s : State} {n m : RegNum} (h : slotOf s.env n = slotOf s.env m) (sz : Size) :
    rd s n sz = rd s m sz := by
  cases sz <;> simp [rd, reg32, byteSlot, byteIsHigh, h]

theorem wr_of_slotOf_eq {s : State} {n m : RegNum} (h : slotOf s.env n = slotOf s.env m) (sz : Size)
    (v : BitVec sz.bits) : wr s n sz v = wr s m sz v := by
  cases sz <;> simp [wr, reg32, byteSlot, byteIsHigh, h]

/-- Settles O24. -/
theorem environmentRegisters : Obligations.EnvironmentRegisters := by
  intro s n sz v
  constructor
  · intro low high
    have h : slotOf s.env n = slotOf s.env (s.env.reg.setWidth 5) :=
      Fin.ext ((slotOf_reg s.env low high).trans (slotOf_x86 s.env _).symm)
    exact ⟨rd_of_slotOf_eq h sz, wr_of_slotOf_eq h sz v⟩
  · intro low
    have h : slotOf s.env n = slotOf s.env (s.env.regm.setWidth 5) :=
      Fin.ext ((slotOf_regm s.env low).trans (slotOf_x86 s.env _).symm)
    exact ⟨rd_of_slotOf_eq h sz, wr_of_slotOf_eq h sz v⟩

/-! ### Reads and writes -/

theorem setSlot_t0 (s : State) (v : Word) : setSlot s t0Slot v = s :=
  if_pos rfl

theorem slotOf_t0 (e : Env) : slotOf e 0b01111#5 = t0Slot :=
  rfl

/-- Settles O22. -/
theorem zeroRegister : Obligations.ZeroRegister := by
  intro s w h
  obtain ⟨slot, high⟩ := byteSlot_high_half (e := s.env) (n := 0b01111#5) (by rw [slotOf_t0]; decide)
  have t4 : byteSlot s.env 0b01111#5 = slotOf s.env 0b01011#5 := Fin.ext slot
  refine ⟨getSlot_t0 s, ?_, setSlot_t0 s w, setSlot_t0 s _, ?_⟩
  · show (getSlot s t0Slot).extractLsb' 0 16 = 0
    rw [getSlot_t0]
    rfl
  · simp only [rd, reg32, t4, high, if_true]

/-- What was written is read back, unless the name is t0. -/
theorem rd_wr_same (s : State) (n : RegNum) (sz : Size) (v : BitVec sz.bits) (h : namedSlot s.env n sz ≠ t0Slot) :
    rd (wr s n sz v) n sz = v := by
  have fits : namedLow s.env n sz + sz.bits ≤ 32 := by
    cases sz with
    | one =>
      simp only [namedLow, Size.bits]
      split <;> omega
    | two | four => simp [namedLow, Size.bits]
  apply BitVec.eq_of_getLsbD_eq
  intro j hj
  rw [rd_bits _ _ _ _ hj, wr_env, wr_bits _ _ _ _ _ _ (by omega), if_pos ⟨rfl, h, by omega, by omega⟩,
    Nat.add_sub_cancel_left]

theorem getSlot_eq (s : State) (k : Fin 24) : getSlot s k = if k.val = 15 then 0 else s.regs[k] := by
  simp only [getSlot, Fin.ext_iff, t0Slot]
  rfl

/-- Settles O23. -/
theorem registerWrite : Obligations.RegisterWrite := by
  intro s n sz v
  refine ⟨fun k i hi => wr_bits s n sz v k i hi, rd_wr_same s n sz v, fun i hi => rd_bits s n sz i hi,
    getSlot_eq s, rfl, ?_, ?_, ?_⟩
  · rintro h (rfl | rfl) <;> exact ⟨slotOf_low s.env h, rfl⟩
  · intro h
    simp only [List.mem_cons, List.not_mem_nil, or_false] at h
    have slot := slotOf_low s.env (n := n) (by omega)
    obtain ⟨hb, hl⟩ := byteSlot_low_half (e := s.env) (n := n) (by omega)
    exact ⟨(congrArg Fin.val hb).trans slot, by simp [namedLow, hl]⟩
  · intro h
    simp only [List.mem_cons, List.not_mem_nil, or_false] at h
    have slot := slotOf_low s.env (n := n) (by omega)
    obtain ⟨hb, hl⟩ := byteSlot_high_half (e := s.env) (n := n) (by omega)
    exact ⟨hb.trans (by rw [slot]), by simp [namedLow, hl]⟩

/-! ### MMX/3D registers -/

/-- Settles O46. -/
theorem mmxRegisterNumbers : Obligations.MmxRegisterNumbers := by
  intro e n
  have bound := n.isLt
  refine ⟨fun low => ?_, fun high => ?_, fun low high => ?_, fun h => ?_, fun low high => ?_⟩
  · exact ⟨_, dif_pos low, rfl⟩
  · refine ⟨e.reg.toFin, ?_, rfl⟩
    simp [mmSlotOf, show ¬24 ≤ n.toNat by omega, show n.toNat < 4 by omega]
  · refine ⟨e.regm.toFin, ?_, rfl⟩
    simp [mmSlotOf, show ¬24 ≤ n.toNat by omega, show ¬n.toNat < 4 by omega, show n.toNat < 8 by omega]
  · simp [mmSlotOf, h]
  · simp [mmSlotOf, show ¬24 ≤ n.toNat by omega, show ¬n.toNat < 4 by omega, show ¬n.toNat < 8 by omega,
      show n.toNat ≠ 8 by omega]

end Sys2Proof.Proofs
end

section
/-! PROOFS. The RegOps of Table 2.31 (41_regops.md R261 to R287): each shared form with its result, its flags and what it
leaves unchanged, and the statements read off it (O25 to O31). -/

namespace Sys2Proof.Proofs
open Sys2Proof.Machine Sys2Proof.Laws

/-! ### The shared forms -/

/-- An adding or subtracting RegOp that writes Dest. -/
theorem arithOp_result (f : {w : Nat} → BitVec w → BitVec w → Alu w) {t0 : Bool} {st : Option Ext4}
    {o : RegOperands} {s : State} (h : ArithAdmitted t0 st o s) (r : Alu (regSize s.env o.dsz).bits)
    (hr : r = f (rd s o.src1 (regSize s.env o.dsz)) (src2Value s (regSize s.env o.dsz) o.src2)) :
    ∃ t, arithOp f true t0 st o s = .ok t ∧ WroteReg s t o.dest (regSize s.env o.dsz) r.res ∧
      FlagsAfter s t st r.flags.get ∧ ChangesOnly [.regs, .flags] s t := by
  refine ⟨_, arithOp_ok.mpr ⟨h, rfl⟩, wroteReg_of rfl rfl (by simp [hr]), ?_, ?_⟩
  · rw [hr]
    exact applyStatus_flagsAfter h.status (by simp) (by simp) rfl
  · exact changesOnly_of (by simp) (sameLaunch_of (by simp)) (by simp) (by simp) (by simp) (by simp) (by simp)
      (by simp) (by simp) (by simp) (by simp)

/-- The form of CMP: flags only. -/
theorem arithOp_compare (f : {w : Nat} → BitVec w → BitVec w → Alu w) {t0 : Bool} {st : Option Ext4}
    {o : RegOperands} {s : State} (h : ArithAdmitted t0 st o s) (r : Alu (regSize s.env o.dsz).bits)
    (hr : r = f (rd s o.src1 (regSize s.env o.dsz)) (src2Value s (regSize s.env o.dsz) o.src2)) :
    ∃ t, arithOp f false t0 st o s = .ok t ∧ FlagsAfter s t st r.flags.get ∧ ChangesOnly [.flags] s t := by
  refine ⟨_, arithOp_ok.mpr ⟨h, rfl⟩, ?_, ?_⟩
  · rw [hr]
    exact applyStatus_flagsAfter h.status rfl rfl rfl
  · exact changesOnly_of (by simp) (sameLaunch_of (by simp)) (by simp) (by simp) (by simp) (by simp) (by simp)
      (by simp) (by simp) (by simp) (by simp)

/-- A logic RegOp; with SS = 0 it draws no free value and writes no flag. -/
theorem logicOp_result (f : {w : Nat} → BitVec w → BitVec w → BitVec w) {t0 : Bool} {st : Option Ext4}
    {o : RegOperands} {s : State} (h : ArithAdmitted t0 st o s) (r : BitVec (regSize s.env o.dsz).bits)
    (hr : r = f (rd s o.src1 (regSize s.env o.dsz)) (src2Value s (regSize s.env o.dsz) o.src2)) :
    ∃ t, logicOp f t0 st o s = .ok t ∧ WroteReg s t o.dest (regSize s.env o.dsz) r ∧
      FlagsAfter s t st (logicFlag r (s.drawn.getLsbD 0)) ∧ ChangesOnly [.regs, .flags, .draws] s t ∧
      (st = none → ChangesOnly [.regs] s t) := by
  subst hr
  refine ⟨_, logicOp_ok.mpr ⟨h, rfl⟩, ?_, ?_, ?_, ?_⟩
  · refine wroteReg_of rfl rfl ?_
    cases st <;> rfl
  · rw [← funext (logicFlags_flag _ _)]
    refine applyStatus_flagsAfter h.status ?_ ?_ rfl
    · cases st <;> simp
    · cases st <;> simp
  · cases st <;>
      exact changesOnly_of (by simp) (sameLaunch_of (by simp)) (by simp) (by simp) (by simp) (by simp) (by simp)
        (by simp) (by simp) (by simp) (by simp)
  · rintro rfl
    exact changesOnly_of (by simp) (sameLaunch_of (by simp)) (by simp) (by simp) (by simp) (by simp) (by simp)
      (by simp) (by simp) (by simp) (by simp)

/-! ### ADD, ADC, SUB, SBB, CMP -/

/-- The add group: result, flags and frame. -/
theorem addOp_result (c : Bool) {t0 : Bool} {st : Option Ext4} {o : RegOperands} {s : State}
    (h : ArithAdmitted t0 st o s) :
    ∃ (t : State) (r : BitVec (regSize s.env o.dsz).bits),
      arithOp (fun a b => aluAdd a b c) true t0 st o s = .ok t ∧
      r.toNat = ((rd s o.src1 (regSize s.env o.dsz)).toNat + (src2Value s (regSize s.env o.dsz) o.src2).toNat +
        c.toNat) % 2 ^ (regSize s.env o.dsz).bits ∧
      WroteReg s t o.dest (regSize s.env o.dsz) r ∧
      FlagsAfter s t st
        (addFlag (rd s o.src1 (regSize s.env o.dsz)) (src2Value s (regSize s.env o.dsz) o.src2) c r) ∧
      ChangesOnly [.regs, .flags] s t := by
  obtain ⟨t, ht, hw, hf, hc⟩ := arithOp_result (fun a b => aluAdd a b c) h _ rfl
  rw [funext (aluAdd_flag _ _ c (Size.bits_pos _))] at hf
  exact ⟨t, _, ht, aluAdd_toNat _ _ c (Size.bits_pos _), hw, hf, hc⟩

/-- The sub group: result, flags and frame. -/
theorem subOp_result (c : Bool) {t0 : Bool} {st : Option Ext4} {o : RegOperands} {s : State}
    (h : ArithAdmitted t0 st o s) :
    ∃ (t : State) (r : BitVec (regSize s.env o.dsz).bits),
      arithOp (fun a b => aluSub a b c) true t0 st o s = .ok t ∧
      (r.toNat + (src2Value s (regSize s.env o.dsz) o.src2).toNat + c.toNat) % 2 ^ (regSize s.env o.dsz).bits =
        (rd s o.src1 (regSize s.env o.dsz)).toNat ∧
      WroteReg s t o.dest (regSize s.env o.dsz) r ∧
      FlagsAfter s t st
        (subFlag (rd s o.src1 (regSize s.env o.dsz)) (src2Value s (regSize s.env o.dsz) o.src2) c r) ∧
      ChangesOnly [.regs, .flags] s t := by
  obtain ⟨t, ht, hw, hf, hc⟩ := arithOp_result (fun a b => aluSub a b c) h _ rfl
  rw [funext (aluSub_flag _ _ c (Size.bits_pos _))] at hf
  exact ⟨t, _, ht, aluSub_toNat _ _ c (Size.bits_pos _), hw, hf, hc⟩

/-- Settles O25. -/
theorem addAdcResults : Obligations.AddAdcResults := by
  intro t0 st o s h
  obtain ⟨t, r, ht, rest⟩ := addOp_result false h
  obtain ⟨t', r', ht', rest'⟩ := addOp_result s.flags.cf h
  exact ⟨⟨t, r, finish_next.mpr ht, rest⟩, ⟨t', r', finish_next.mpr ht', rest'⟩⟩

/-- Settles O26. -/
theorem subSbbResults : Obligations.SubSbbResults := by
  intro t0 st o s h
  obtain ⟨t, r, ht, rest⟩ := subOp_result false h
  obtain ⟨t', r', ht', rest'⟩ := subOp_result s.flags.cf h
  exact ⟨⟨t, r, finish_next.mpr ht, rest⟩, ⟨t', r', finish_next.mpr ht', rest'⟩⟩

/-- Settles O27. -/
theorem cmpResults : Obligations.CmpResults := by
  intro t0 st o s h
  obtain ⟨t, ht, hf, hc⟩ := arithOp_compare (fun a b => aluSub a b false) h _ rfl
  rw [funext (aluSub_flag _ _ false (Size.bits_pos _))] at hf
  exact ⟨t, _, finish_next.mpr ht, aluSub_toNat _ _ false (Size.bits_pos _), hf, hc⟩

/-! ### AND, OR, XOR -/

/-- Settles O28. -/
theorem logicResults : Obligations.LogicResults := by
  intro t0 st o s h p hp
  simp only [List.mem_cons, List.not_mem_nil, or_false] at hp
  rcases hp with rfl | rfl | rfl
  · obtain ⟨t, ht, hw, hf, hc, -⟩ := logicOp_result (fun a b => a &&& b) h _ rfl
    exact ⟨t, _, _, finish_next.mpr ht, fun _ _ => BitVec.getLsbD_and, hw, hf, hc⟩
  · obtain ⟨t, ht, hw, hf, hc, -⟩ := logicOp_result (fun a b => a ||| b) h _ rfl
    exact ⟨t, _, _, finish_next.mpr ht, fun _ _ => BitVec.getLsbD_or, hw, hf, hc⟩
  · obtain ⟨t, ht, hw, hf, hc, -⟩ := logicOp_result (fun a b => a ^^^ b) h _ rfl
    exact ⟨t, _, _, finish_next.mpr ht, fun _ _ => BitVec.getLsbD_xor, hw, hf, hc⟩

/-! ### INC, DEC, MOV -/

theorem src2Value_one (s : State) (sz : Size) : src2Value s sz (.imm 1) = 1 := by
  show (if s.params.imm8Signed then BitVec.signExtend sz.bits 1#8 else BitVec.setWidth sz.bits 1#8) = 1
  split <;> cases sz <;> rfl

/-- The operands INC and DEC stand for are admitted with their status field. -/
theorem incDec_admitted {s : State} (sz : RegSize) (d n : RegNum) (h : StatusAdmitted (some 0b0110#4) s) :
    ArithAdmitted false (some 0b0110#4) ⟨false, sz, d, n, .imm 1⟩ s :=
  ⟨rfl, (nomatch ·), h⟩

/-- Under the default groups ss = 0110 does not select CF (10_state.md R42). -/
theorem cf_kept {s t : State} {v : FlagName → Bool} (h : FlagsAfter s t (some 0b0110#4) v)
    (hg : s.params.extGroups = Config.defaultExtGroups) : t.flags.cf = s.flags.cf := by
  have hcf := h .cf
  have unselected : FlagName.cf ∉ selected Config.defaultExtGroups 0b0110#4 := by decide
  rwa [hg, if_neg (by simpa using unselected)] at hcf

theorem one_toNat (sz : Size) : (1 : BitVec sz.bits).toNat = 1 := by
  cases sz <;> rfl

/-- Settles O29. -/
theorem incDecResults : Obligations.IncDecResults := by
  intro sz d n s h
  constructor
  · obtain ⟨t, r, ht, hr, hw, hf, hc⟩ := addOp_result false (incDec_admitted sz d n h)
    simp only [src2Value_one, one_toNat] at hr hf
    exact ⟨t, r, finish_next.mpr ht, hr, hw, hf, cf_kept hf, hc⟩
  · obtain ⟨t, r, ht, hr, hw, hf, hc⟩ := subOp_result false (incDec_admitted sz d n h)
    simp only [src2Value_one, one_toNat] at hr hf
    exact ⟨t, r, finish_next.mpr ht, hr, hw, hf, cf_kept hf, hc⟩

/-- t0 reads zero at 2 and 4 bytes. -/
theorem rd_t0 (s : State) {sz : Size} (h : sz ≠ .one) : rd s 0b01111#5 sz = 0 := by
  obtain ⟨four, two, -⟩ := zeroRegister s 0 0
  cases sz
  · exact absurd rfl h
  · exact two
  · exact four

/-- Settles O30: OR with t0 gives the other operand. -/
theorem movResult : Obligations.MovResult := by
  intro sz d x s h
  have admitted : ArithAdmitted false none ⟨false, sz, d, 0b01111#5, x⟩ s :=
    ⟨rfl, (nomatch ·), fun _ e => nomatch e⟩
  obtain ⟨t, ht, hw, -, -, hc⟩ := logicOp_result (fun a b => a ||| b) admitted _ rfl
  refine ⟨t, finish_next.mpr (res_bind_ok.mpr ⟨(), ?_, ht⟩), ?_, hc rfl⟩
  · exact refuseUnless_ok.mpr (by simpa using h)
  · simpa [rd_t0 s (regSize_ne_one s.env sz h)] using hw

/-- Settles O31. -/
theorem immediateOperand : Obligations.ImmediateOperand := by
  intro s sz v
  have wide : 8 ≤ sz.bits := by cases sz <;> decide
  constructor
  · intro h
    rw [src2Value, if_pos h]
    exact BitVec.toInt_signExtend_of_le wide
  · intro h
    rw [src2Value, if_neg (by simp [h])]
    exact BitVec.toNat_setWidth_of_le wide

end Sys2Proof.Proofs
end

section
/-! PROOFS. The RegOps of Tables 2.32 to 2.34 that write no special register: shifts (O32), the RegOps under `regop_fn`
(O33, O34), extensions (O35), MOVcc (O36), BSWAP (O38), and what they are refused for (O37, O39). -/

namespace Sys2Proof.Proofs
open Sys2Proof.Machine Sys2Proof.Laws

/-! ### An Op that wrote one register -/

theorem changesOnly_advance (s : State) : ChangesOnly [] s s.advance :=
  changesOnly_of rfl (sameLaunch_of (by simp)) (by simp) (by simp) (by simp) (by simp) (by simp) (by simp) (by simp)
    (by simp) (by simp)

theorem wroteReg_wr (s : State) (n : RegNum) (sz : Size) (v : BitVec sz.bits) :
    WroteReg s (wr s n sz v).advance n sz v :=
  wroteReg_of rfl rfl rfl

theorem changesOnly_wr (s : State) (n : RegNum) (sz : Size) (v : BitVec sz.bits) :
    ChangesOnly [.regs] s (wr s n sz v).advance :=
  changesOnly_of (by simp) (sameLaunch_of (by simp)) (by simp) (by simp) (by simp) (by simp) (by simp) (by simp)
    (by simp) (by simp) (by simp)

theorem wroteReg_wr_drew (s : State) (n : RegNum) (sz : Size) (v : BitVec sz.bits) :
    WroteReg s (wr s.drew n sz v).advance n sz v :=
  wroteReg_of (s1 := s.drew) rfl rfl rfl

theorem changesOnly_wr_drew (s : State) (n : RegNum) (sz : Size) (v : BitVec sz.bits) :
    ChangesOnly [.regs, .draws] s (wr s.drew n sz v).advance :=
  changesOnly_of (by simp) (sameLaunch_of (by simp)) (by simp) (by simp) (by simp) (by simp) (by simp) (by simp)
    (by simp) (by simp) (by simp)

/-! ### Shifts -/

theorem shiftOp_result (f : {w : Nat} → BitVec w → Nat → BitVec w) {t0 : Bool} {st : Option Ext4} {o : RegOperands}
    {s : State} (h : ShiftAdmitted t0 st o s) (r : BitVec (regSize s.env o.dsz).bits)
    (hr : r = f (rd s o.src1 (regSize s.env o.dsz)) (shiftCount (src2Value s (regSize s.env o.dsz) o.src2))) :
    ∃ t, shiftOp f t0 st o s = .ok t ∧ WroteReg s t o.dest (regSize s.env o.dsz) r ∧ ChangesOnly [.regs] s t :=
  ⟨_, shiftOp_ok.mpr ⟨h, rfl⟩, hr ▸ wroteReg_wr s _ _ _, changesOnly_wr s _ _ _⟩

/-- The low five bits of operand `b` (41_regops.md R326). -/
theorem shiftCount_eq {w : Nat} (b : BitVec w) : shiftCount b = b.toNat % 32 := by
  simp [shiftCount, BitVec.extractLsb'_toNat]

/-- Settles O32. -/
theorem shiftResults : Obligations.ShiftResults := by
  intro t0 st o s h
  refine ⟨?_, ?_, ?_⟩
  · obtain ⟨t, ht, hw, hc⟩ := shiftOp_result (fun a n => a <<< n) h _ rfl
    refine ⟨t, _, finish_next.mpr ht, ?_, hw, hc⟩
    rw [BitVec.toNat_shiftLeft, Nat.shiftLeft_eq, shiftCount_eq]
  · obtain ⟨t, ht, hw, hc⟩ := shiftOp_result (fun a n => a >>> n) h _ rfl
    refine ⟨t, _, finish_next.mpr ht, ?_, hw, hc⟩
    rw [BitVec.toNat_ushiftRight, Nat.shiftRight_eq_div_pow, shiftCount_eq]
  · obtain ⟨t, ht, hw, hc⟩ := shiftOp_result (fun a n => a.sshiftRight n) h _ rfl
    refine ⟨t, _, finish_next.mpr ht, ?_, hw, hc⟩
    rw [BitVec.toInt_sshiftRight, Int.shiftRight_eq_div_pow, shiftCount_eq]
    norm_cast

/-! ### The RegOps under `regop_fn` -/

theorem specialGuard_admitted {ss : Bool} {o : RegOperands} (h : SpecialAdmitted ss o) (s : State) :
    specialGuard ss o s = .ok () :=
  specialGuard_ok.mpr h

theorem shiftGuard_admitted {t0 : Bool} {st : Option Ext4} {o : RegOperands} {s : State}
    (h : ShiftAdmitted t0 st o s) : shiftGuard t0 st o s = .ok () :=
  shiftGuard_ok.mpr h

theorem freeShiftOp_admitted {t0 : Bool} {st : Option Ext4} {o : RegOperands} {s : State}
    (h : ShiftAdmitted t0 st o s) (hz : o.dsz ≠ .one) : freeShiftOp t0 st o s = regopFnOp o s := by
  have wide : nonByteGuard s o = .ok () := refuseUnless_ok.mpr (by simpa using hz)
  simp [freeShiftOp, shiftGuard_admitted h, wide]

theorem freeByteShiftOp_admitted {t0 : Bool} {st : Option Ext4} {o : RegOperands} {s : State}
    (h : ShiftAdmitted t0 st o s) (hz : o.dsz = .one) : freeByteShiftOp t0 st o s = regopFnOp o s := by
  have byte : byteGuard s o = .ok () := refuseUnless_ok.mpr (by simpa using hz)
  simp [freeByteShiftOp, shiftGuard_admitted h, byte]

theorem freeOp_admitted {ss : Bool} {o : RegOperands} (h : SpecialAdmitted ss o) (s : State) :
    freeOp ss o s = regopFnOp o s := by
  simp [freeOp, specialGuard_admitted h]

theorem freeByteOp_admitted {ss : Bool} {o : RegOperands} (s : State) (rx : o.rx = false) (status : ss = false)
    (hz : o.dsz = .one) : freeByteOp ss o s = regopFnOp o s := by
  simp [freeByteOp, rxGuard, noStatusGuard, byteGuard, rx, status, hz]

/-- The RegOps whose function the spec does not state, at the sizes their rows have (41_regops.md R291 to R325). -/
def FreeForm : Instr → Prop
  | .sla _ _ _ => True
  | .slc _ _ o | .rlc _ _ o | .src _ _ o | .rrc _ _ o | .sld _ _ o | .rld _ _ o | .rdflgs _ _ o | .mul1s _ o
  | .mul1u _ o | .muleh _ o | .mulel _ o | .div1 _ o | .div2 _ o | .diver _ o | .diveq _ o | .rdflg _ o
  | .rdseg _ _ o => o.dsz ≠ .one
  | .rls _ _ o | .rrs _ _ o | .daa _ o | .das _ o => o.dsz = .one
  | _ => False

/-- In an admitted form such an Op is what `regop_fn` makes of it. -/
theorem exec_freeForm {i : Instr} {f : RegForm} {s : State} (hf : regForm i = some f) (rx : f.ops.rx = false)
    (status : f.ss = false) (type0 : f.table = .shift → Type0Admitted f.type0 s) (form : FreeForm i) :
    exec i s = finish (regopFnOp f.ops s) := by
  have shift : ∀ {t0 : Bool} {st : Option Ext4} {o : RegOperands}, some (⟨.shift, t0, st.isSome, o⟩ : RegForm) = some f →
      ShiftAdmitted t0 st o s ∧ o = f.ops := by
    rintro t0 st o ⟨⟩
    exact ⟨⟨rx, type0 rfl, by simpa using status⟩, rfl⟩
  have special : ∀ {ss : Bool} {o : RegOperands}, some (⟨.special, false, ss, o⟩ : RegForm) = some f →
      o.dsz ≠ .one → SpecialAdmitted ss o ∧ o = f.ops := by
    rintro ss o ⟨⟩ hz
    exact ⟨⟨rx, status, hz⟩, rfl⟩
  cases i
  case sla =>
    obtain ⟨h, rfl⟩ := shift hf
    show finish (shiftGuard _ _ _ _ >>= _) = _
    rw [shiftGuard_admitted h]
    rfl
  case slc | rlc | src | rrc | sld | rld =>
    obtain ⟨h, rfl⟩ := shift hf
    exact congrArg finish (freeShiftOp_admitted h form)
  case rls | rrs =>
    obtain ⟨h, rfl⟩ := shift hf
    exact congrArg finish (freeByteShiftOp_admitted h form)
  case rdflgs | mul1s | mul1u | muleh | mulel | div1 | div2 | diver | diveq | rdflg | rdseg =>
    obtain ⟨h, rfl⟩ := special hf form
    exact congrArg finish (freeOp_admitted h s)
  case daa | das =>
    cases hf
    exact congrArg finish (freeByteOp_admitted s rx status form)
  all_goals exact form.elim

/-- Settles O33. -/
theorem freeFunctionOpsRun : Obligations.FreeFunctionOpsRun := by
  intro i f s hf free rx status type0 form
  rw [exec_freeForm hf rx status type0 form]
  exact ⟨_, _, finish_next.mpr (regopFnOp_ok.mpr ⟨free, rfl⟩), wroteReg_wr_drew s _ _ _, changesOnly_wr_drew s _ _ _⟩

/-- Settles O34. -/
theorem freeFunctionOpsRefused : Obligations.FreeFunctionOpsRefused := by
  intro i f s hf untaken rx status type0 form
  rw [exec_freeForm hf rx status type0 form]
  have taken : (s.params.regopFn == .free) = false := by
    rw [untaken]
    rfl
  simp [regopFnOp, taken]

/-! ### Extensions -/

theorem extendOp_result (f : {w : Nat} → BitVec w → BitVec w) {st : Option Ext4} {o : RegOperands} {s : State}
    (h : SpecialAdmitted st.isSome o) (source : o.src2 = .reg o.src1) (r : BitVec (regSize s.env o.dsz).bits)
    (hr : r = f (rd s o.src1 (regSize s.env o.dsz))) :
    ∃ t, extendOp f st o s = .ok t ∧ WroteReg s t o.dest (regSize s.env o.dsz) r ∧ ChangesOnly [.regs] s t :=
  ⟨_, extendOp_ok.mpr ⟨h, source, rfl⟩, hr ▸ wroteReg_wr s _ _ _, changesOnly_wr s _ _ _⟩

/-- A size other than 1 byte has 16 bits at least. -/
theorem sixteen_le_bits (e : Env) {z : RegSize} (h : z ≠ .one) : 16 ≤ (regSize e z).bits := by
  have := regSize_ne_one e z h
  cases hz : regSize e z
  · exact absurd hz this
  all_goals decide

theorem zeroExtend_toNat {w k : Nat} (a : BitVec w) (h : k ≤ w) :
    ((a.extractLsb' 0 k).setWidth w).toNat = a.toNat % 2 ^ k := by
  rw [BitVec.toNat_setWidth_of_le h, BitVec.extractLsb'_toNat, Nat.shiftRight_zero]

theorem signExtend_toInt {w k : Nat} (a : BitVec w) (h : k ≤ w) :
    ((a.extractLsb' 0 k).signExtend w).toInt = Int.bmod a.toNat (2 ^ k) := by
  rw [BitVec.toInt_signExtend_of_le h, BitVec.toInt_eq_toNat_bmod, BitVec.extractLsb'_toNat, Nat.shiftRight_zero]
  exact (congrArg (Int.bmod · _) (Int.natCast_mod _ _)).trans (Int.emod_bmod _ _)

/-- Settles O35. -/
theorem extensionResults : Obligations.ExtensionResults := by
  intro st o s h source
  have wide := sixteen_le_bits s.env h.size
  refine ⟨?_, ?_, ?_, ?_⟩
  · obtain ⟨t, ht, rest⟩ := extendOp_result (fun a => (a.extractLsb' 0 8).setWidth _) h source _ rfl
    exact ⟨t, _, finish_next.mpr ht, zeroExtend_toNat (k := 8) _ (by omega), rest⟩
  · obtain ⟨t, ht, rest⟩ := extendOp_result (fun a => (a.extractLsb' 0 8).signExtend _) h source _ rfl
    exact ⟨t, _, finish_next.mpr ht, signExtend_toInt (k := 8) _ (by omega), rest⟩
  · obtain ⟨t, ht, rest⟩ := extendOp_result (fun a => (a.extractLsb' 0 16).setWidth _) h source _ rfl
    exact ⟨t, _, finish_next.mpr ht, zeroExtend_toNat (k := 16) _ wide, rest⟩
  · obtain ⟨t, ht, rest⟩ := extendOp_result (fun a => (a.extractLsb' 0 16).signExtend _) h source _ rfl
    exact ⟨t, _, finish_next.mpr ht, signExtend_toInt (k := 16) _ wide, rest⟩

/-! ### Conditions that are refused, and MOVcc -/

/-- A condition on ECF or EZF (42_specops.md R367). -/
theorem cond_emuFlags {s : State} {cc : BitVec 5}
    (h : (cc.extractLsb' 1 4).toNat = 1 ∨ (cc.extractLsb' 1 4).toNat = 2) :
    Machine.cond s cc = refuse (.emuFlags s.pc) := by
  have test : condTest s (cc.extractLsb' 1 4) = refuse (.emuFlags s.pc) := by
    unfold condTest
    rcases h with h | h <;> rw [h] <;> rfl
  simp [Machine.cond, test]

/-- A string condition (42_specops.md R367). -/
theorem cond_stringCond {s : State} {cc : BitVec 5} (low : 3 ≤ (cc.extractLsb' 1 4).toNat)
    (high : (cc.extractLsb' 1 4).toNat ≤ 7) : Machine.cond s cc = refuse (.stringCond s.pc) := by
  have test : condTest s (cc.extractLsb' 1 4) = refuse (.stringCond s.pc) := by
    unfold condTest
    generalize (cc.extractLsb' 1 4).toNat = n at low high
    interval_cases n <;> rfl
  simp [Machine.cond, test]

theorem movccOp_refused {cc : BitVec 5} {ss : Bool} {o : RegOperands} {s : State} {r : Refusal}
    (h : SpecialAdmitted ss o) (role : o.src1 = o.dest) (hc : Machine.cond s cc = refuse r) :
    exec (.movcc cc ss o) s = .refused r := by
  show finish (movccOp cc ss o s) = _
  simp [movccOp, specialGuard_admitted h, role, hc]

/-- Settles O36. -/
theorem movccResult : Obligations.MovccResult := by
  intro cc ss o s h role
  refine ⟨fun hc => ?_, fun hc => ?_, fun code => movccOp_refused h role (cond_emuFlags code),
    fun low high => movccOp_refused h role (cond_stringCond low high)⟩
  · exact ⟨_, finish_next.mpr (movccOp_ok.mpr ⟨h, role, true, hc, rfl⟩), wroteReg_wr s _ _ _, changesOnly_wr s _ _ _⟩
  · exact ⟨_, finish_next.mpr (movccOp_ok.mpr ⟨h, role, false, hc, rfl⟩), changesOnly_advance s⟩

/-! ### Operand roles, and BSWAP -/

theorem oneSourceGuard_refused (s : State) {o : RegOperands} (h : o.src2 ≠ .reg o.src1) :
    oneSourceGuard s o = refuse (.operandRole s.pc) := by
  have other : (o.src2 == .reg o.src1) = false := beq_eq_false_iff_ne.mpr h
  simp [oneSourceGuard, other]

theorem extendOp_refused (f : {w : Nat} → BitVec w → BitVec w) {st : Option Ext4} {o : RegOperands} (s : State)
    (h : SpecialAdmitted st.isSome o) (role : o.src2 ≠ .reg o.src1) :
    finish (extendOp f st o s) = .refused (.operandRole s.pc) := by
  simp [extendOp, specialGuard_admitted h, oneSourceGuard_refused s role]

/-- Settles O37. -/
theorem operandRolesRefused : Obligations.OperandRolesRefused := by
  intro st ss cc k o s
  refine ⟨fun h role => ⟨?_, fun size => ?_⟩, fun h role => ?_, fun h role size known => ?_⟩
  · intro i hi
    simp only [List.mem_cons, List.not_mem_nil, or_false] at hi
    rcases hi with rfl | rfl | rfl | rfl <;> exact extendOp_refused _ s h role
  · show finish (bswapOp st o s) = _
    simp [bswapOp, specialGuard_admitted h, size, oneSourceGuard_refused s role]
  · have other : (o.src1 == o.dest) = false := beq_eq_false_iff_ne.mpr role
    show finish (movccOp cc ss o s) = _
    simp [movccOp, specialGuard_admitted h, other]
  · obtain ⟨r, known⟩ := Option.isSome_iff_exists.mp known
    show finish (wrxxxOp k ss o s) = _
    simp [wrxxxOp, srOperand_ok.mpr ⟨h, known, size⟩, oneSourceGuard_refused s role]

/-- The bytes in the other order (41_regops.md R324). -/
theorem swapBytes_byte (a : Word) (i : Nat) (hi : i < 4) :
    (swapBytes a).extractLsb' (8 * i) 8 = a.extractLsb' (8 * (3 - i)) 8 := by
  unfold swapBytes
  interval_cases i
  · exact (field_lo _ _ (by decide)).trans (field_self _)
  · exact (field_hi _ _ (by decide)).trans ((field_lo _ _ (by decide)).trans (field_self _))
  · exact (field_hi _ _ (by decide)).trans ((field_hi _ _ (by decide)).trans
      ((field_lo _ _ (by decide)).trans (field_self _)))
  · exact (field_hi _ _ (by decide)).trans ((field_hi _ _ (by decide)).trans
      ((field_hi _ _ (by decide)).trans (field_self _)))

/-- Settles O38. -/
theorem bswapResult : Obligations.BswapResult := by
  intro st o s h
  refine ⟨fun size source => ?_, fun size => ?_⟩
  · exact ⟨_, _, finish_next.mpr (bswapOp_ok.mpr ⟨h, size, source, rfl⟩), swapBytes_byte _, wroteReg_wr s _ _ _,
      changesOnly_wr s _ _ _⟩
  · have other : (regSize s.env o.dsz == .four) = false := beq_eq_false_iff_ne.mpr size
    show finish (bswapOp st o s) = _
    simp [bswapOp, specialGuard_admitted h, other]

/-! ### What a RegOp is refused for by its form -/

theorem res_bind_assoc {α β γ : Type} (x : Res α) (f : α → Res β) (g : β → Res γ) :
    x >>= f >>= g = x >>= fun a => f a >>= g := by
  cases x <;> rfl

/-- What a RegOp checks first, by its table. -/
def formGuard (f : RegForm) (st : Option Ext4) (s : State) : Res Unit :=
  match f.table with
  | .arithmetic => arithGuard f.type0 st f.ops s
  | .shift => do
    rxGuard s f.ops
    type0Guard s f.type0
    noStatusGuard s f.ss
  | .special => do
    rxGuard s f.ops
    noStatusGuard s f.ss

/-- Every RegOp with a form checks it first. -/
theorem exec_formGuard {i : Instr} {f : RegForm} (s : State) (hf : regForm i = some f) :
    ∃ k : Unit → Res State, exec i s = finish (formGuard f (statusField i) s >>= k) := by
  have special : ∀ (ss : Bool) (o : RegOperands) (k : Unit → Res State),
      ∃ k', finish (specialGuard ss o s >>= k) = finish (formGuard ⟨.special, false, ss, o⟩ none s >>= k') :=
    fun ss o k => ⟨fun _ => nonByteGuard s o >>= k, by simp only [specialGuard, formGuard, res_bind_assoc]⟩
  cases i
  case add | or | adc | sbb | and | sub | xor | cmp =>
    cases hf
    exact ⟨_, rfl⟩
  case sll | srl | sra | slc | rlc | src | rrc | sla | sld | rld | rls | rrs =>
    cases hf
    exact ⟨_, rfl⟩
  case daa st o | das st o =>
    cases hf
    refine ⟨fun _ => byteGuard s o >>= fun _ => regopFnOp o s, ?_⟩
    show finish (freeByteOp _ _ _) = _
    simp only [freeByteOp, formGuard, res_bind_assoc]
  case rdxxx k ss o =>
    cases hf
    show ∃ k', finish (rdxxxOp _ _ _ _) = _
    simp only [rdxxxOp, srOperand, res_bind_assoc]
    exact special _ _ _
  case wrxxx k ss o =>
    cases hf
    show ∃ k', finish (wrxxxOp _ _ _ _) = _
    simp only [wrxxxOp, srOperand, res_bind_assoc]
    exact special _ _ _
  case zext8 | sext8 | zext16 | sext16 | rdflgs | movcc | mul1s | mul1u | muleh | mulel | div1 | div2 | diver |
      diveq | rdflg | bswap | rdseg =>
    cases hf
    exact special _ _ _
  all_goals cases hf

/-- An Op whose form is refused is refused. -/
theorem exec_refused_of_formGuard {i : Instr} {f : RegForm} {s : State} {r : Refusal} (hf : regForm i = some f)
    (h : formGuard f (statusField i) s = refuse r) : exec i s = .refused r := by
  obtain ⟨k, hk⟩ := exec_formGuard s hf
  rw [hk, h]
  rfl

theorem rxGuard_set (s : State) {o : RegOperands} (h : o.rx = true) : rxGuard s o = refuse (.rxSet s.pc) := by
  simp [rxGuard, h]

theorem rxGuard_clear (s : State) {o : RegOperands} (h : o.rx = false) : rxGuard s o = .ok () := by
  simp [rxGuard, h]

theorem type0Guard_strict {s : State} {t0 : Bool} (h : t0 = true) (strict : s.params.type0 = .strict) :
    type0Guard s t0 = refuse (.type0 s.pc) := by
  have admitted : (s.params.type0 == .ignore) = false := by
    rw [strict]
    rfl
  simp [type0Guard, h, admitted]

theorem type0Guard_admitted {s : State} {t0 : Bool} (h : Type0Admitted t0 s) : type0Guard s t0 = .ok () := by
  cases t0
  · rfl
  · have ignore : (s.params.type0 == .ignore) = true := beq_iff_eq.mpr (h rfl)
    simp [type0Guard, ignore]

theorem noStatusGuard_set (s : State) {ss : Bool} (h : ss = true) :
    noStatusGuard s ss = refuse (.flagsUnknown s.pc) := by
  simp [noStatusGuard, h]

/-- A status field of Table 2.31 that is not admitted (41_regops.md R269, log 23). -/
theorem statusOk_eq_false {s : State} {ext : Ext4}
    (h : ext.getLsbD 3 = true ∨ FlagName.ecf ∈ selected s.params.extGroups ext ∨
      FlagName.ezf ∈ selected s.params.extGroups ext) : statusOk s (some ext) = false := by
  simp only [statusOk]
  rcases h with h | h | h
  · rw [h]; rfl
  · rw [List.contains_iff_mem.mpr h]; simp
  · rw [List.contains_iff_mem.mpr h]; simp

theorem arithGuard_flagsUnknown {t0 : Bool} {ext : Ext4} {o : RegOperands} {s : State} (rx : o.rx = false)
    (type0 : Type0Admitted t0 s)
    (h : ext.getLsbD 3 = true ∨ FlagName.ecf ∈ selected s.params.extGroups ext ∨
      FlagName.ezf ∈ selected s.params.extGroups ext) :
    arithGuard t0 (some ext) o s = refuse (.flagsUnknown s.pc) := by
  simp [arithGuard, rxGuard_clear s rx, type0Guard_admitted type0, statusOk_eq_false h]

/-- Settles O39, refusal by refusal on the check of the form. -/
theorem regOpFormRefusals : Obligations.RegOpFormRefusals := by
  constructor
  · intro i f s hf
    refine ⟨fun rx => ?_, fun rx table t0 strict => ?_, fun rx type0 table ss => ?_,
      fun rx table type0 status => ?_⟩ <;> refine exec_refused_of_formGuard hf ?_
    · cases h : f.table <;> simp [formGuard, h, arithGuard, rxGuard_set s rx]
    · cases h : f.table
      case special => exact absurd h table
      all_goals simp [formGuard, h, arithGuard, rxGuard_clear s rx, type0Guard_strict t0 strict]
    · cases h : f.table
      case arithmetic => exact absurd h table
      case shift => simp [formGuard, h, rxGuard_clear s rx, type0Guard_admitted (type0 h), noStatusGuard_set s ss]
      case special => simp [formGuard, h, rxGuard_clear s rx, noStatusGuard_set s ss]
    · obtain ⟨ext, field, groups⟩ := status
      simp only [formGuard, table, field]
      exact arithGuard_flagsUnknown rx type0 groups
  · intro sz d n s groups
    have guard := arithGuard_flagsUnknown (t0 := false) (o := ⟨false, sz, d, n, .imm 1⟩) rfl (nomatch ·) (.inr groups)
    constructor
    · show finish (arithGuard _ _ _ _ >>= _) = _
      rw [guard]
      rfl
    · show finish (arithGuard _ _ _ _ >>= _) = _
      rw [guard]
      rfl

end Sys2Proof.Proofs
end

section
/-! PROOFS. RDxxx and WRxxx: the special registers and their masks (O42), what a read gives (O40), what a write stores
and does to the numeric-processor state (O41), and the two together (O43). -/

namespace Sys2Proof.Proofs
open Sys2Proof.Machine Sys2Proof.Laws

/-! ### The value read and the value stored -/

/-- Of all registers but the time stamp counter a read returns the stored fields (10_state.md R49, 60_exceptions.md
R435). -/
theorem srReadMask_eq {r : SR} (low : r ≠ .sr17) (high : r ≠ .sr18) : srReadMask r = srStoreMask r := by
  cases r
  case sr17 => exact absurd rfl low
  case sr18 => exact absurd rfl high
  all_goals rfl

theorem srReadValue_stored (s : State) {r : SR} (low : r ≠ .sr17) (high : r ≠ .sr18) (d : Word) :
    srReadValue s r d &&& srStoreMask r = s.sr.get r &&& srStoreMask r := by
  rw [srReadValue, srReadMask_eq low high]
  ext j
  simp only [BitVec.getElem_and, BitVec.getElem_or, BitVec.getElem_not]
  cases (s.sr.get r)[j] <;> cases d[j] <;> cases (srStoreMask r)[j] <;> rfl

/-- A stored bit gets the bit of the value written (10_state.md R49). -/
theorem srWritten_getLsbD (s : State) (r : SR) (v : Word) {j : Nat} (stored : (srStoreMask r).getLsbD j = true) :
    (srWritten s r v).getLsbD j = v.getLsbD j := by
  have := congrArg (·.getLsbD j) (srWritten_stored s r v)
  simpa only [BitVec.getLsbD_and, stored, Bool.and_true] using this

/-- The lower half of the Tag/Status/Control store is kept (10_state.md R69). -/
theorem npConfigured_lower (np : NpState) (cfg : Word) (i : Nat) (hi : i < 16) :
    (npConfigured np cfg).tagStatusControl.getLsbD i = np.tagStatusControl.getLsbD i := by
  simp only [npConfigured, BitVec.getLsbD_append, hi, if_true, BitVec.getLsbD_extractLsb', decide_true, Bool.true_and,
    Nat.zero_add]

/-- SR29 written: the three bits it acts by are stored ones (10_state.md R66). -/
theorem npConfigured_srWritten (s : State) (v : Word) :
    (npConfigured s.np (srWritten s .sr29 v)).beforeException = (s.np.beforeException && !v.getLsbD 0) ∧
      (npConfigured s.np (srWritten s .sr29 v)).hyperFlg = (s.np.hyperFlg || !v.getLsbD 2) ∧
      (∀ j, j < 16 → (npConfigured s.np (srWritten s .sr29 v)).tagStatusControl.getLsbD j =
        s.np.tagStatusControl.getLsbD j) ∧
      ∀ j, j < 16 → (npConfigured s.np (srWritten s .sr29 v)).tagStatusControl.getLsbD (16 + j) = !v.getLsbD 22 := by
  refine ⟨?_, ?_, npConfigured_lower _ _, fun j hj => ?_⟩
  · rw [← srWritten_getLsbD s .sr29 v (j := 0) (by decide)]
    rfl
  · rw [← srWritten_getLsbD s .sr29 v (j := 2) (by decide)]
    rfl
  · rw [npConfigured_upper _ _ j hj, srWritten_getLsbD s .sr29 v (j := 22) (by decide)]

/-! ### RDxxx and WRxxx run -/

theorem rdxxx_result {k : BitVec 5} {ss : Bool} {o : RegOperands} {s : State} {r : SR} (h : SpecialAdmitted ss o)
    (known : srOfNumber k = some r) (size : regSize s.env o.dsz = .four) :
    exec (.rdxxx k ss o) s = .next (wr s.drew o.dest .four (srReadValue s r s.drawn)).advance :=
  finish_next.mpr (rdxxxOp_ok.mpr ⟨r, srOperand_ok.mpr ⟨h, known, size⟩, rfl⟩)

/-- Settles O40. -/
theorem rdxxxResult : Obligations.RdxxxResult := by
  intro k ss o s r h known size
  exact ⟨_, _, rdxxx_result h known size, fun low high => srReadValue_stored s low high _, wroteReg_wr_drew s _ _ _,
    changesOnly_wr_drew s _ _ _⟩

/-- The state after a WRxxx that writes `v` to `r`. -/
def wroteSr (s : State) (r : SR) (v : Word) : State :=
  ((s.withSr (s.sr.set r (srWritten s r v))).withNp (npAfter s r (srWritten s r v))).advance

theorem wroteSr_get (s : State) (r q : SR) (v : Word) :
    (wroteSr s r v).sr.get q = if q = r then srWritten s r v else s.sr.get q :=
  SpecialRegs.get_set _ _ _ _

theorem changesOnly_wroteSr (s : State) (r : SR) (v : Word) : ChangesOnly [.sr, .np] s (wroteSr s r v) :=
  changesOnly_of (by simp [wroteSr]) (sameLaunch_of (by simp [wroteSr])) (by simp [wroteSr]) (by simp [wroteSr])
    (by simp [wroteSr]) (by simp [wroteSr]) (by simp [wroteSr]) (by simp [wroteSr]) (by simp [wroteSr])
    (by simp [wroteSr]) (by simp [wroteSr])

theorem wroteSr_np_of_ne (s : State) {r : SR} (v : Word) (h : r ≠ .sr29) : (wroteSr s r v).np = s.np := by
  cases r
  case sr29 => exact absurd rfl h
  all_goals rfl

/-- Settles O41. -/
theorem wrxxxResult : Obligations.WrxxxResult := by
  intro k ss o s r h known size role reserved action
  have get := fun q => wroteSr_get s r q (reg32 s o.src1)
  refine ⟨wroteSr s r (reg32 s o.src1), ?_, ?_, ?_, fun q hq => ?_, wroteSr_np_of_ne s _, ?_,
    changesOnly_wroteSr s r _⟩
  · exact finish_next.mpr (wrxxxOp_ok.mpr ⟨r, srOperand_ok.mpr ⟨h, known, size⟩, role, reserved, action, rfl⟩)
  · rw [get, if_pos rfl, srWritten_stored]
  · rw [get, if_pos rfl, srWritten_unstored]
  · rw [get, if_neg hq]
  · rintro rfl
    exact npConfigured_srWritten s _

/-- Settles O43: the stored fields written are the ones a read returns. -/
theorem specialRegisterReadBack : Obligations.SpecialRegisterReadBack := by
  intro k ssw ssr ow o s t r known low high hw h size
  obtain ⟨r', operand, -, -, -, rfl⟩ := wrxxxOp_ok.mp (finish_next.mp hw)
  obtain ⟨-, known', -⟩ := srOperand_ok.mp operand
  obtain rfl : r = r' := Option.some.inj (known.symm.trans known')
  refine ⟨_, _, rdxxx_result h known size, wroteReg_wr_drew _ _ _ _, ?_⟩
  change srReadValue (wroteSr s r (reg32 s ow.src1)) r _ &&& _ = _
  rw [srReadValue_stored _ low high, wroteSr_get, if_pos rfl, srWritten_stored]

/-! ### The masks, and what RDxxx and WRxxx are refused for -/

/-- The numbers that name no special register (10_state.md R67). -/
theorem srOfNumber_eq_none {k : BitVec 5} (h : k.toNat ∈ [6, 7, 8, 9, 10, 11, 12, 14, 15, 19, 20, 22, 23, 30, 31]) :
    srOfNumber k = none := by
  revert k
  decide

theorem srOperand_unknown {k : BitVec 5} {ss : Bool} {o : RegOperands} (s : State) (h : SpecialAdmitted ss o)
    (unknown : srOfNumber k = none) : srOperand k ss o s = refuse (.unknownSR s.pc) := by
  simp [srOperand, specialGuard_admitted h, unknown]

theorem srOperand_size {k : BitVec 5} {ss : Bool} {o : RegOperands} {s : State} {r : SR} (h : SpecialAdmitted ss o)
    (known : srOfNumber k = some r) (size : regSize s.env o.dsz ≠ .four) :
    srOperand k ss o s = refuse (.srSize s.pc) := by
  have other : (regSize s.env o.dsz == .four) = false := beq_eq_false_iff_ne.mpr size
  simp [srOperand, specialGuard_admitted h, known, other]

/-- An Op whose special register is refused is refused. -/
theorem exec_srOperand_refused {k : BitVec 5} {ss : Bool} {o : RegOperands} {s : State} {e : Refusal}
    (h : srOperand k ss o s = refuse e) :
    exec (.rdxxx k ss o) s = .refused e ∧ exec (.wrxxx k ss o) s = .refused e := by
  constructor
  · show finish (rdxxxOp k ss o s) = _
    simp [rdxxxOp, h]
  · show finish (wrxxxOp k ss o s) = _
    simp [wrxxxOp, h]

/-- Settles O42. -/
theorem specialRegisterRefusals : Obligations.SpecialRegisterRefusals := by
  refine ⟨by decide, fun k ss o s h => ⟨fun number => ?_, fun r known => ⟨fun size => ?_, fun size role => ?_⟩⟩⟩
  · exact exec_srOperand_refused (srOperand_unknown s h (srOfNumber_eq_none number))
  · exact exec_srOperand_refused (srOperand_size h known size)
  · have operand := srOperand_ok.mpr ⟨h, known, size⟩
    have source : oneSourceGuard s o = .ok () := oneSourceGuard_ok.mpr role
    refine ⟨fun reserved => ?_, fun reserved action => ?_⟩
    · have set : (rd s o.src1 .four &&& srReservedMask r == 0#32) = false := beq_eq_false_iff_ne.mpr reserved
      show finish (wrxxxOp k ss o s) = _
      simp [wrxxxOp, operand, source, set]
    · have clear : (rd s o.src1 .four &&& srReservedMask r == 0#32) = true := beq_iff_eq.mpr reserved
      have set : (rd s o.src1 .four &&& srActionMask r == 0#32) = false := beq_eq_false_iff_ne.mpr action
      show finish (wrxxxOp k ss o s) = _
      simp [wrxxxOp, operand, source, clear, set]

end Sys2Proof.Proofs
end

section
/-! PROOFS. Loads and stores: what an access nothing stops reads (O44, O45) and stores (O47, O48), and the effective
address itself (O53). -/

namespace Sys2Proof.Proofs
open Sys2Proof.Machine Sys2Proof.Laws

/-! ### Bytes of a value -/

/-- A field below a width is the same at that width. -/
theorem extractLsb'_setWidth {w k lo n : Nat} (v : BitVec w) (h : lo + n ≤ k) :
    (v.setWidth k).extractLsb' lo n = v.extractLsb' lo n := by
  ext i hi
  simp [show lo + i < k by omega]

theorem size_bits_eq (z : Size) : z.bits = 8 * z.bytes := by
  cases z <;> rfl

theorem size_bytes_le (z : Size) : z.bytes ≤ 4 := by
  cases z <;> decide

/-- A value is read by its bytes alone. -/
theorem readsAs_setWidth {w k n : Nat} {s : State} {seg : Seg} {ea : Word} {kind : AccessKind} {v : BitVec w}
    (h : ReadsAs s seg ea kind n v) (hk : 8 * n ≤ k) : ReadsAs s seg ea kind n (v.setWidth k) := by
  intro i hi
  rw [h i hi, extractLsb'_setWidth v (by omega)]

/-- A value is stored by its bytes alone. -/
theorem storedAt_of_setWidth {w k n : Nat} {s t : State} {seg : Seg} {ea : Word} {v : BitVec w}
    (h : StoredAt s t seg ea n (v.setWidth k)) (hk : 8 * n ≤ k) : StoredAt s t seg ea n v := by
  refine ⟨h.1, fun i p hi hp last => ?_⟩
  rw [h.2 i p hi hp last, extractLsb'_setWidth v (by omega)]

/-! ### Integer loads -/

theorem memRead_size {s : State} {seg : Seg} {ea : Word} {z : Size} {kind : AccessKind}
    (h : Accessible s seg ea z.bytes kind) :
    ∃ v, memRead s seg ea z.bytes kind = .ok v ∧ ReadsAs s seg ea kind z.bytes (v.setWidth z.bits) := by
  obtain ⟨v, hv, bytes⟩ := memRead_accessible h (by have := size_bytes_le z; omega)
  exact ⟨v, hv, readsAs_setWidth bytes (size_bits_eq z).ge⟩

/-- LD and LDST of an access that nothing stops. -/
theorem loadInt_result {kind : AccessKind} {a : Address} {sz : IntSize} (d : RegNum) {s : State}
    (h : Accessible s (segOf s.env a.seg) (effAddr s a) (intSize s.env sz).bytes kind) :
    ∃ (t : State) (v : BitVec (intSize s.env sz).bits), loadInt kind false a sz d s = .ok t ∧
      ReadsAs s (segOf s.env a.seg) (effAddr s a) kind (intSize s.env sz).bytes v ∧
      WroteReg s t d (intSize s.env sz) v ∧ ChangesOnly [.regs] s t := by
  obtain ⟨v, hv, bytes⟩ := memRead_size h
  exact ⟨_, _, loadInt_ok.mpr ⟨v, hv, rfl⟩, bytes, wroteReg_wr s _ _ _, changesOnly_wr s _ _ _⟩

theorem changesOnly_wr_recordLock (s : State) (seg : Seg) (ea : Word) (n : Nat) (d : RegNum) (z : Size)
    (v : BitVec z.bits) : ChangesOnly [.regs, .locks] s (wr (recordLock s seg ea n) d z v).advance :=
  changesOnly_of (by simp) (sameLaunch_of (by simp)) (by simp) (by simp) (by simp) (by simp) (by simp) (by simp)
    (by simp) (by simp) (by simp)

/-- Settles O44. -/
theorem integerLoads : Obligations.IntegerLoads := by
  intro a sz d s
  refine ⟨fun h => ?_, fun h => ⟨?_, ?_⟩⟩
  · obtain ⟨t, v, ht, rest⟩ := loadInt_result d h
    exact ⟨t, v, finish_next.mpr ht, rest⟩
  · obtain ⟨t, v, ht, rest⟩ := loadInt_result d h
    exact ⟨t, v, finish_next.mpr ht, rest⟩
  · obtain ⟨v, hv, bytes⟩ := memRead_size h
    exact ⟨_, _, finish_next.mpr (loadInt_ok.mpr ⟨v, hv, rfl⟩), bytes, wroteReg_of (s1 := recordLock s _ _ _) rfl rfl rfl,
      by simp [recordLock], changesOnly_wr_recordLock s _ _ _ _ _ _⟩

/-! ### MMX loads -/

theorem wroteMm_setMm (s : State) (r : MmSlot) (v : DWord) : WroteMm s (setMm s r v).advance r v := by
  have read : ∀ q, getMm (setMm s r v).advance q = if q = r then v else getMm s q :=
    fun q => getMm_setMm s r q v
  exact ⟨by rw [read, if_pos rfl], fun q hq => by rw [read, if_neg hq]⟩

theorem changesOnly_setMm (s : State) (r : MmSlot) (v : DWord) : ChangesOnly [.mmx] s (setMm s r v).advance :=
  changesOnly_of (by simp) (sameLaunch_of (by simp)) (by simp) (by simp) (by simp) (by simp) (by simp) (by simp)
    (by simp) (by simp) (by simp)

theorem changesOnly_setMm_recordLock (s : State) (seg : Seg) (ea : Word) (n : Nat) (r : MmSlot) (v : DWord) :
    ChangesOnly [.mmx, .locks] s (setMm (recordLock s seg ea n) r v).advance :=
  changesOnly_of (by simp) (sameLaunch_of (by simp)) (by simp) (by simp) (by simp) (by simp) (by simp) (by simp)
    (by simp) (by simp) (by simp)

/-- A load of less than 8 bytes is refused before the access is looked at (log 21). -/
theorem loadMm_partial {kind : AccessKind} {locked : Bool} {a : Address} {sz : FpSize} {d : RegNum} {s : State}
    {r : MmSlot} (hr : mmSlotOf s.env d = some r) (h : sz = .two ∨ sz = .four) :
    finish (loadMm kind locked a sz d s) = .refused (.mmxPartialLoad s.pc) := by
  rcases h with rfl | rfl <;> simp [loadMm, mmOperands, fpBytes, hr]

/-- Settles O45. -/
theorem mmxLoads : Obligations.MmxLoads := by
  intro a d s r hr
  refine ⟨fun h => ?_, fun h => ?_, fun sz hz => ⟨loadMm_partial hr hz, loadMm_partial hr hz⟩⟩
  · obtain ⟨v, hv, bytes⟩ := memRead_accessible h (le_refl 8)
    exact ⟨_, v, finish_next.mpr (loadMm_ok.mpr ⟨r, v, rfl, hr, hv, rfl⟩), bytes, wroteMm_setMm s r v,
      changesOnly_setMm s r v⟩
  · obtain ⟨v, hv, bytes⟩ := memRead_accessible h (le_refl 8)
    exact ⟨_, v, finish_next.mpr (loadMm_ok.mpr ⟨r, v, rfl, hr, hv, rfl⟩), bytes, wroteMm_setMm (recordLock s _ _ _) r v,
      by simp [recordLock], changesOnly_setMm_recordLock s _ _ _ r v⟩

/-! ### Stores -/

theorem changesOnly_withMem (s : State) (m : Memory) : ChangesOnly [.mem] s (s.withMem m).advance :=
  changesOnly_of (by simp) (sameLaunch_of (by simp)) (by simp) (by simp) (by simp) (by simp) (by simp) (by simp)
    (by simp) (by simp) (by simp)

theorem changesOnly_wr_withMem (s : State) (m : Memory) (n : RegNum) (z : Size) (v : BitVec z.bits) :
    ChangesOnly [.mem, .regs] s (wr (s.withMem m) n z v).advance :=
  changesOnly_of (by simp) (sameLaunch_of (by simp)) (by simp) (by simp) (by simp) (by simp) (by simp) (by simp)
    (by simp) (by simp) (by simp)

/-- The memory an integer store makes. -/
theorem storeInt_result {a : Address} {sz : IntSize} (d : RegNum) {s : State}
    (h : Accessible s (segOf s.env a.seg) (effAddr s a) (intSize s.env sz).bytes .write) :
    ∃ m, storeInt a sz d s = .ok (s.withMem m) ∧
      StoredAt s (s.withMem m) (segOf s.env a.seg) (effAddr s a) (intSize s.env sz).bytes
        (rd s d (intSize s.env sz)) := by
  obtain ⟨m, hm, stored⟩ := memWrite_accessible ((rd s d (intSize s.env sz)).setWidth 64) h
  exact ⟨m, hm, storedAt_of_setWidth stored (by have := size_bytes_le (intSize s.env sz); omega)⟩

theorem exec_st {a : Address} {sz : IntSize} {d : RegNum} {s t : State} (h : storeInt a sz d s = .ok t) :
    exec (.st a sz d) s = .next t.advance := by
  show finish (storeInt a sz d s >>= _) = _
  rw [h]
  rfl

/-- A store of which the state after it has the memory. -/
theorem storedAt_congr {w n : Nat} {s t u : State} {seg : Seg} {ea : Word} {v : BitVec w}
    (h : StoredAt s t seg ea n v) (hm : u.mem = t.mem) : StoredAt s u seg ea n v := by
  unfold StoredAt
  rw [hm]
  exact h

/-- Settles O47. -/
theorem integerStores : Obligations.IntegerStores := by
  intro a sz d s h
  obtain ⟨m, hm, stored⟩ := storeInt_result d h
  constructor
  · exact ⟨_, exec_st hm, storedAt_congr stored rfl, changesOnly_withMem s m⟩
  · refine ⟨(wr (s.withMem m) (reg4 a.base) (addrSize s.env a.asz).size
      ((effAddr s a).setWidth (addrSize s.env a.asz).size.bits)).advance, ?_, storedAt_congr stored (by simp),
      wroteReg_of (s1 := s.withMem m) rfl rfl rfl, changesOnly_wr_withMem s m _ _ _⟩
    show finish (storeInt a sz d s >>= _) = _
    rw [hm]
    rfl

/-- Settles O48. -/
theorem mmxStore : Obligations.MmxStore := by
  intro a sz n d s r hr hn h
  have operands : mmOperands s sz d = .ok (n, r) := by
    simp only [List.mem_cons, Prod.mk.injEq, List.not_mem_nil, or_false] at hn
    rcases hn with ⟨rfl, rfl⟩ | ⟨rfl, rfl⟩ | ⟨rfl, rfl⟩ <;> exact mmOperands_ok.mpr ⟨rfl, hr⟩
  obtain ⟨m, hm, stored⟩ := memWrite_accessible (getMm s r) h
  refine ⟨(s.withMem m).advance, ?_, storedAt_congr stored rfl, changesOnly_withMem s m⟩
  show finish (mmOperands s sz d >>= _) = _
  simp only [operands, res_ok_bind, hm]
  rfl

/-! ### The effective address -/

theorem dispValue_eq_ofInt (s : State) (d : Disp) :
    dispValue s d = BitVec.ofInt 32 (match d with
      | .disp8 v => if s.params.disp8Signed then v.toInt else (v.toNat : Int)
      | .env32 => (s.env.disp32.toNat : Int)) := by
  cases d with
  | env32 => simp [dispValue]
  | disp8 v =>
    simp only [dispValue]
    split
    · rfl
    · rw [BitVec.ofInt_natCast, BitVec.ofNat_toNat]

theorem scaleFactor_eq_ofInt {c : Scale} {f : Nat} (h : (c, f) ∈ [(Scale.x1, 1), (.x2, 2), (.x4, 4), (.x8, 8)]) :
    scaleFactor c = BitVec.ofInt 32 f := by
  simp only [List.mem_cons, Prod.mk.injEq, List.not_mem_nil, or_false] at h
  rcases h with ⟨rfl, rfl⟩ | ⟨rfl, rfl⟩ | ⟨rfl, rfl⟩ | ⟨rfl, rfl⟩ <;> rfl

/-- The effective address in integer arithmetic (20_memory.md R135, R136). -/
theorem effAddr_toInt {s : State} {a : Address} {f m : Nat} {x : Int}
    (hf : (a.isf, f) ∈ [(Scale.x1, 1), (.x2, 2), (.x4, 4), (.x8, 8)])
    (hm : (addrSize s.env a.asz, m) ∈ [(EnvSize.two, 2 ^ 16), (.four, 2 ^ 32)])
    (hx : x = (match a.disp with
      | .disp8 v => if s.params.disp8Signed then v.toInt else (v.toNat : Int)
      | .env32 => (s.env.disp32.toNat : Int))) :
    ((effAddr s a).toNat : Int) = ((reg32 s (reg4 a.base)).toNat + (reg32 s (reg4 a.index)).toNat * f + x) % m := by
  have sum : reg32 s (reg4 a.base) + reg32 s (reg4 a.index) * scaleFactor a.isf + dispValue s a.disp =
      BitVec.ofInt 32 ((reg32 s (reg4 a.base)).toNat + (reg32 s (reg4 a.index)).toNat * f + x) := by
    rw [dispValue_eq_ofInt, ← hx, scaleFactor_eq_ofInt hf, BitVec.ofInt_add, BitVec.ofInt_add, BitVec.ofInt_mul]
    simp
  generalize ((reg32 s (reg4 a.base)).toNat + (reg32 s (reg4 a.index)).toNat * f + x : Int) = total at sum
  simp only [List.mem_cons, Prod.mk.injEq, List.not_mem_nil, or_false] at hm
  rcases hm with ⟨hz, rfl⟩ | ⟨hz, rfl⟩ <;> simp only [effAddr, hz, sum]
  · have := BitVec.toNat_ofInt (n := 32) total
    simp only [BitVec.toNat_setWidth, BitVec.extractLsb'_toNat, Nat.shiftRight_zero]
    omega
  · have := BitVec.toNat_ofInt (n := 32) total
    omega

/-- Settles O53. -/
theorem effectiveAddress : Obligations.EffectiveAddress := by
  intro a sz d s f m x hf hm hx
  refine ⟨_, _, rfl, ?_, wroteReg_wr s _ _ _, changesOnly_wr s _ _ _⟩
  rw [← effAddr_toInt hf hm hx, BitVec.toNat_setWidth]
  norm_cast

end Sys2Proof.Proofs
end

section
/-! PROOFS. What stops an access (O49) and an address check (O51, O52), and memory under the defaults (O50). -/

namespace Sys2Proof.Proofs
open Sys2Proof.Machine Sys2Proof.Laws

/-! ### What stops an access -/

theorem memRead_of_access_error {s : State} {seg : Seg} {ea : Word} {n : Nat} {kind : AccessKind} {e : Stop}
    (h : access s seg ea n kind = .error e) : memRead s seg ea n kind = .error e := by
  simp [memRead, h]

theorem memWrite_of_access_error {s : State} {seg : Seg} {ea : Word} {n : Nat} (v : DWord) {e : Stop}
    (h : access s seg ea n .write = .error e) : memWrite s seg ea n v = .error e := by
  simp [memWrite, h]

theorem loadInt_of_access_error {kind : AccessKind} (locked : Bool) {a : Address} {sz : IntSize} (d : RegNum)
    {s : State} {e : Stop} (h : access s (segOf s.env a.seg) (effAddr s a) (intSize s.env sz).bytes kind = .error e) :
    loadInt kind locked a sz d s = .error e := by
  simp only [loadInt, memRead_of_access_error h, res_error_bind]

theorem storeInt_of_access_error {a : Address} {sz : IntSize} (d : RegNum) {s : State} {e : Stop}
    (h : access s (segOf s.env a.seg) (effAddr s a) (intSize s.env sz).bytes .write = .error e) :
    storeInt a sz d s = .error e :=
  memWrite_of_access_error _ h

theorem loadMm_of_access_error {kind : AccessKind} (locked : Bool) {a : Address} {d : RegNum} {s : State} {r : MmSlot}
    (hr : mmSlotOf s.env d = some r) {e : Stop} (h : access s (segOf s.env a.seg) (effAddr s a) 8 kind = .error e) :
    loadMm kind locked a .eight d s = .error e := by
  have operands : mmOperands s .eight d = .ok (8, r) := mmOperands_ok.mpr ⟨rfl, hr⟩
  simp [loadMm, operands, memRead_of_access_error h]

/-- Where an MMX/3D register is named, its access is the one given. -/
theorem access_of_mmSlot {e : Env} {d : RegNum} {α : Type} {q : Option α} {x : α}
    (h : (if (mmSlotOf e d).isSome then q else none) = some x) : ∃ r, mmSlotOf e d = some r ∧ q = some x := by
  split at h
  · next hr => exact (Option.isSome_iff_exists.mp hr).imp fun r hr => ⟨hr, h⟩
  · cases h

/-- An Op that makes an access stops as the access stops. -/
theorem exec_of_access_error {i : Instr} {s : State} {seg : Seg} {ea : Word} {n : Nat} {kind : AccessKind} {e : Stop}
    (ha : dataAccess i s = some (seg, ea, n, kind)) (h : access s seg ea n kind = .error e) :
    exec i s = finish (.error e) := by
  cases i
  case ld | ldst | ldstl =>
    cases ha
    exact congrArg finish (loadInt_of_access_error _ _ h)
  case ldm a sz d | ldmstl a sz d =>
    cases sz <;> try cases ha
    obtain ⟨r, hr, ha⟩ := access_of_mmSlot ha
    cases ha
    exact congrArg finish (loadMm_of_access_error _ hr h)
  case st | stupd =>
    cases ha
    exact congrArg (fun x => finish (x >>= _)) (storeInt_of_access_error _ h)
  case stm a sz d =>
    obtain ⟨r, hr, ha⟩ := access_of_mmSlot ha
    obtain ⟨n, hn, ha⟩ := Option.map_eq_some_iff.mp ha
    cases ha
    show finish (mmOperands s sz d >>= _) = _
    simp only [mmOperands_ok.mpr ⟨hn, hr⟩, res_ok_bind, memWrite_of_access_error _ h, res_error_bind]
  all_goals cases ha

/-- A byte of an access has no physical address (20_memory.md R139, R142). -/
theorem physical_byte_eq_none {s : State} {seg : Seg} {ea : Word} {kind : AccessKind} {j : Nat} :
    physical s (segBase s seg + ea + BitVec.ofNat 32 j) kind = none ↔
      byteAddr s seg ea kind j = none ∨ ¬storeTranslates s seg ea kind j := by
  simp [physical_eq_none, byteAddr, storeTranslates]

theorem physical_byte_eq_some {s : State} {seg : Seg} {ea : Word} {kind : AccessKind} {j p : Nat}
    (hp : byteAddr s seg ea kind j = some p) (store : storeTranslates s seg ea kind j) :
    ∃ q, physical s (segBase s seg + ea + BitVec.ofNat 32 j) kind = some q ∧ q.toNat = p := by
  obtain ⟨q, hq, rfl⟩ := Option.map_eq_some_iff.mp hp
  exact ⟨q, physical_eq_some.mpr ⟨hq, fun hk hn => store hk (by simp [byteAddr, hn])⟩, rfl⟩

theorem alignedOk_iff (s : State) (ea : Word) (n : Nat) :
    alignedOk s ea n = true ↔ s.params.misaligned = .split ∨ ea.toNat % n = 0 := by
  unfold alignedOk
  cases s.params.misaligned <;> simp

/-- Settles O49, stop by stop from `access_error`. -/
theorem accessStops : Obligations.AccessStops := by
  intro i s seg ea n kind ha
  have stops : ∀ {e : Stop}, access s seg ea n kind = .error e → exec i s = finish (.error e) :=
    exec_of_access_error ha
  refine ⟨alignedOk_iff s ea n, fun ms => ?_, fun ms al => ?_, fun ms al deny => ?_, fun ms al allow store j hj before =>
    ?_⟩
  · exact stops (access_error.mpr (.inl ⟨ms, rfl⟩))
  · exact stops (access_error.mpr (.inr (.inl ⟨ms, al, rfl⟩)))
  · refine stops (access_error.mpr (.inr (.inr (.inl ⟨ms, al, Bool.eq_false_iff.mpr fun allow => ?_, rfl⟩))))
    obtain ⟨hk, hw⟩ := segAllows_eq_true.mp allow
    rcases deny with deny | ⟨rw, deny⟩
    · exact absurd (hk.symm.trans deny) (by decide)
    · exact absurd ((hw rw).symm.trans deny) (by decide)
  · have first : ∀ {e : Stop}, (physical s (segBase s seg + ea + BitVec.ofNat 32 j) kind = none ∧
        e = .fault (.pageFault ea kind s.pc) ∨
          ∃ p, physical s (segBase s seg + ea + BitVec.ofNat 32 j) kind = some p ∧ s.mem.lookup p.toNat = none ∧
            e = .fault (.stuck p.toNat s.pc)) → exec i s = finish (.error e) := by
      intro e he
      refine stops (access_error.mpr (.inr (.inr (.inr ⟨ms, al, segAllows_eq_true.mpr ⟨allow, store⟩, ?_⟩))))
      refine accessCells_error.mpr ⟨j, by simpa using hj, fun m _ hm => ?_, ?_⟩
      · rw [linearAddrs_getElem]
        exact cellAt_ne_none.mpr (before m hm)
      · rwa [linearAddrs_getElem]
    refine ⟨fun fault => first (.inl ⟨physical_byte_eq_none.mpr fault, rfl⟩), fun p hp hs absent => ?_⟩
    obtain ⟨q, hq, rfl⟩ := physical_byte_eq_some hp hs
    exact first (.inr ⟨q, hq, absent, rfl⟩)

/-! ### Address checks -/

/-- The check of a data address passes where the address is admitted and every byte translates (40_ldstops.md R236). -/
theorem checkAddress_result {a : Address} {n : Nat} {s : State} (ms : segOf s.env a.seg ≠ .ms)
    (allow : segCheck s (segOf s.env a.seg) (effAddr s a) n .read = true)
    (bytes : ∀ i, i < n → byteAddr s (segOf s.env a.seg) (effAddr s a) .read i ≠ none) :
    finish (checkAddress a n s) = .next s.advance := by
  obtain ⟨ps, hps⟩ := exists_addrs bytes
  exact finish_next.mpr (checkAddress_ok.mpr ⟨⟨ps, checkData_ok.mpr ⟨ms, allow, hps⟩⟩, rfl⟩)

theorem exec_cdaf {a : Address} {fz : FpSize} {n : Nat} (d : RegNum) (s : State)
    (h : (fz, n) ∈ [(FpSize.two, 2), (.four, 4), (.eight, 8)]) :
    exec (.cdaf a fz d) s = finish (checkAddress a n s) := by
  simp only [List.mem_cons, Prod.mk.injEq, List.not_mem_nil, or_false] at h
  rcases h with ⟨rfl, rfl⟩ | ⟨rfl, rfl⟩ | ⟨rfl, rfl⟩ <;> rfl

/-- Settles O51. -/
theorem addressChecksComplete : Obligations.AddressChecksComplete := by
  intro a sz fz n d s
  refine ⟨fun ms allow bytes => ?_, fun hn ms allow bytes => ?_, fun allow => ?_, ?_, ?_⟩
  · exact ⟨_, checkAddress_result ms allow bytes, changesOnly_advance s⟩
  · exact ⟨_, (exec_cdaf d s hn).trans (checkAddress_result ms allow bytes), changesOnly_advance s⟩
  · refine ⟨_, ?_, changesOnly_advance s⟩
    show finish (raiseUnless _ _ >>= _) = _
    rw [allow]
    rfl
  · exact ⟨_, rfl, changesOnly_advance s⟩
  · exact ⟨_, rfl, changesOnly_advance s⟩

theorem checkAddress_specialMemory {a : Address} {n : Nat} {s : State} (h : segOf s.env a.seg = .ms) :
    finish (checkAddress a n s) = .refused (.specialMemory s.pc) := by
  simp [checkAddress, checkData, h]

/-- A check of ordinary memory stops as its addresses do. -/
theorem checkAddress_of_error {a : Address} {n : Nat} {s : State} {f : Fault} (ms : segOf s.env a.seg ≠ .ms)
    (h : checkedAddrs s (segOf s.env a.seg) (effAddr s a) n .read = .error (.fault f)) :
    finish (checkAddress a n s) = .fault f := by
  have ordinary : (segOf s.env a.seg != .ms) = true := bne_iff_ne.mpr ms
  exact finish_fault.mpr (by simp [checkAddress, checkData, ordinary, h])

theorem checkAddress_segFault {a : Address} {n : Nat} {s : State} (ms : segOf s.env a.seg ≠ .ms)
    (deny : segCheck s (segOf s.env a.seg) (effAddr s a) n .read = false) :
    finish (checkAddress a n s) = .fault (.segFault (segOf s.env a.seg) (effAddr s a) s.pc) :=
  checkAddress_of_error ms (checkedAddrs_error.mpr (.inl ⟨deny, rfl⟩))

theorem checkAddress_pageFault {a : Address} {n : Nat} {s : State} (ms : segOf s.env a.seg ≠ .ms)
    (allow : segCheck s (segOf s.env a.seg) (effAddr s a) n .read = true)
    (fault : ∃ i, i < n ∧ byteAddr s (segOf s.env a.seg) (effAddr s a) .read i = none) :
    finish (checkAddress a n s) = .fault (.pageFault (effAddr s a) .read s.pc) :=
  checkAddress_of_error ms (checkedAddrs_error.mpr (.inr ⟨allow, fault, rfl⟩))

/-- Settles O52. -/
theorem addressCheckStops : Obligations.AddressCheckStops := by
  intro a sz fz n d s hn
  rw [exec_cdaf d s hn]
  refine ⟨fun ms => ⟨checkAddress_specialMemory ms, checkAddress_specialMemory ms⟩, checkAddress_segFault,
    checkAddress_segFault, fun deny => ?_, checkAddress_pageFault, checkAddress_pageFault⟩
  show finish (raiseUnless _ _ >>= _) = _
  rw [deny]
  rfl

/-! ### Memory under the defaults -/

/-- The defaults of the parameters a memory access asks (92_eei_decisions.md D6, D18). -/
structure OpenMemory (s : State) : Prop where
  misaligned : s.params.misaligned = .split
  segDeny : s.params.segDeny = []
  pages : s.params.pages = []

section
variable {s : State} (h : OpenMemory s)
include h

theorem OpenMemory.byteAddr_eq (seg : Seg) (ea : Word) (kind : AccessKind) (i : Nat) :
    byteAddr s seg ea kind i = some (segBase s seg + ea + BitVec.ofNat 32 i).toNat := by
  simp [byteAddr, Machine.translate, h.pages, translateIn]

theorem OpenMemory.segCheck_eq (seg : Seg) (ea : Word) (n : Nat) (kind : AccessKind) :
    segCheck s seg ea n kind = true := by
  simp [segCheck, h.segDeny]

theorem OpenMemory.accessible {seg : Seg} {ea : Word} {n : Nat} (kind : AccessKind) (ms : seg ≠ .ms)
    (bytes : ∀ i, i < n → (s.mem.lookup (segBase s seg + ea + BitVec.ofNat 32 i).toNat).isSome = true) :
    Accessible s seg ea n kind where
  ordinary := ms
  aligned := (alignedOk_iff s ea n).mpr (.inl h.misaligned)
  allowed := h.segCheck_eq seg ea n kind
  mapped i hi := by
    rw [byteAt, h.byteAddr_eq]
    exact bytes i hi
  storeAllowed _ := h.segCheck_eq seg ea n .write
  storeMapped i _ _ := by
    rw [h.byteAddr_eq]
    exact (nomatch ·)

/-- Up to four bytes in a row have different addresses, so each reads what was stored to it. -/
theorem OpenMemory.stored {w n : Nat} {t : State} {seg : Seg} {ea : Word} {v : BitVec w}
    (stored : StoredAt s t seg ea n v) (hn : n ≤ 4) (i : Nat) (hi : i < n) :
    t.mem.lookup (segBase s seg + ea + BitVec.ofNat 32 i).toNat = some (v.extractLsb' (8 * i) 8) := by
  refine stored.2 i _ hi (h.byteAddr_eq seg ea .write i) fun j hij hj => ?_
  rw [h.byteAddr_eq, ne_eq, Option.some.injEq]
  bv_omega

end

/-- Two values of whole bytes are the same where their bytes are. -/
theorem eq_of_bytes {w n : Nat} {v u : BitVec w} (hw : w = 8 * n)
    (h : ∀ i, i < n → v.extractLsb' (8 * i) 8 = u.extractLsb' (8 * i) 8) : v = u := by
  apply BitVec.eq_of_getLsbD_eq
  intro j hj
  have := congrArg (·.getLsbD (j % 8)) (h (j / 8) (by omega))
  simpa [BitVec.getLsbD_extractLsb', show j % 8 < 8 by omega, Nat.div_add_mod] using this

/-- Settles O50: the bytes a load reads after the store are those of Data. -/
theorem storeThenLoad : Obligations.StoreThenLoad := by
  intro s
  refine ⟨rfl, rfl, rfl, rfl, rfl, rfl, rfl, rfl, rfl, rfl, fun misaligned segDeny pages => ?_⟩
  have h : OpenMemory s := ⟨misaligned, segDeny, pages⟩
  refine ⟨fun seg ea n kind ms bytes => ⟨h.accessible kind ms bytes, h.byteAddr_eq seg ea kind⟩,
    fun a sz d x ms bytes => ?_⟩
  obtain ⟨m, hm, stored⟩ := storeInt_result d (h.accessible .write ms bytes)
  have hmem := h.stored stored (size_bytes_le _)
  let t := (s.withMem m).advance
  have ht : OpenMemory t := ⟨misaligned, segDeny, pages⟩
  have readable : Accessible t (segOf t.env a.seg) (effAddr t a) (intSize t.env sz).bytes .read :=
    ht.accessible .read ms fun i hi => Option.isSome_iff_exists.mpr ⟨_, hmem i hi⟩
  obtain ⟨u, v, hu, reads, wrote, rest⟩ := loadInt_result x readable
  have same : v = rd s d (intSize s.env sz) := eq_of_bytes (size_bits_eq _) fun i hi => by
    have byte := reads i hi
    rw [byteAt, ht.byteAddr_eq] at byte
    exact Option.some.inj (byte.symm.trans (hmem i hi))
  exact ⟨t, u, exec_st hm, finish_next.mpr hu, hmem, changesOnly_withMem s m, same ▸ wrote, rest⟩

end Sys2Proof.Proofs
end

section
/-! PROOFS. The SpecOps and the LIMMOp: the conditions of BRCOND (O54), what they say after CMP (O55), LDK and LIMM (O56,
O57), FAULT (O58), and the Ops without a meaning (O59). -/

namespace Sys2Proof.Proofs
open Sys2Proof.Machine Sys2Proof.Laws

/-! ### BRCOND -/

theorem changesOnly_withBr (s : State) (b : Bool) : ChangesOnly [.br] s (s.withBr b).advance :=
  changesOnly_of (by simp) (sameLaunch_of (by simp)) (by simp) (by simp) (by simp) (by simp) (by simp) (by simp)
    (by simp) (by simp) (by simp)

/-- BRCOND of a condition that has a value. -/
theorem brcond_result (low : BitVec 2) {o : SpecOperands} {s : State} {b : Bool}
    (test : condTest s (o.cc.extractLsb' 1 4) = .ok b) :
    ∃ t, exec (.brcond low o) s = .next t ∧ t.br = (b ^^ (s.params.cc0Negates && o.cc.getLsbD 0)) ∧
      ChangesOnly [.br] s t := by
  have value : Machine.cond s o.cc = .ok (b ^^ (s.params.cc0Negates && o.cc.getLsbD 0)) :=
    cond_ok.mpr ⟨b, test, rfl⟩
  refine ⟨_, ?_, rfl, changesOnly_withBr s _⟩
  show finish (Machine.cond s o.cc >>= _) = _
  rw [value]
  rfl

theorem brcond_refused (low : BitVec 2) {o : SpecOperands} {s : State} {r : Refusal}
    (h : Machine.cond s o.cc = refuse r) : exec (.brcond low o) s = .refused r := by
  show finish (Machine.cond s o.cc >>= _) = _
  rw [h]
  rfl

/-- Settles O54. -/
theorem branchConditions : Obligations.BranchConditions := by
  intro low o s
  refine ⟨fun p hp code => brcond_result low ?_, fun code => brcond_refused low (cond_emuFlags code),
    fun lo hi => brcond_refused low (cond_stringCond lo hi)⟩
  rw [code]
  simp only [List.mem_cons, List.not_mem_nil, or_false] at hp
  rcases hp with rfl | rfl | rfl | rfl | rfl | rfl | rfl | rfl | rfl <;> rfl

/-! ### BRCOND after CMP -/

/-- The flags after the subtraction `a - b` that the comparisons of `a` and `b` ask (41_regops.md R269). -/
structure Compared {w : Nat} (f : Flags) (a b : BitVec w) : Prop where
  below : f.cf = decide (a.toNat < b.toNat)
  equal : f.zf = decide (a.toNat = b.toNat)
  less : (f.sf ^^ f.of) = decide (a.toInt < b.toInt)

/-- A difference is 0 where the operands are equal. -/
theorem sub_eq_zero_iff {w : Nat} {a b r : BitVec w} (h : (r.toNat + b.toNat) % 2 ^ w = a.toNat) :
    r.toNat = 0 ↔ a.toNat = b.toNat := by
  have hr := r.isLt
  have hb := b.isLt
  rcases Nat.lt_or_ge (r.toNat + b.toNat) (2 ^ w) with small | large
  · rw [Nat.mod_eq_of_lt small] at h
    omega
  · rw [Nat.mod_eq_sub_mod large, Nat.mod_eq_of_lt (by omega)] at h
    omega

/-- The sign of a difference, corrected by overflow, is the signed comparison of the operands. -/
theorem sign_xor_overflow {w : Nat} (hw : 0 < w) {a b r : BitVec w}
    (h : (r.toNat + b.toNat) % 2 ^ w = a.toNat) :
    (decide (r.toInt < 0) ^^ signedOverflow w (a.toInt - b.toInt)) = decide (a.toInt < b.toInt) := by
  obtain ⟨k, rfl⟩ : ∃ k, w = k + 1 := ⟨w - 1, by omega⟩
  have double : 2 ^ (k + 1) = 2 * 2 ^ k := by rw [Nat.pow_succ, Nat.mul_comm]
  have signed : ∀ x : BitVec (k + 1),
      x.toInt = if 2 ^ k ≤ x.toNat then (x.toNat : Int) - 2 * (2 ^ k : Nat) else x.toNat := by
    intro x
    rw [BitVec.toInt_eq_toNat_cond, double]
    split <;> split <;> omega
  have range : ∀ x : Int, signedOverflow (k + 1) x = decide (x < -((2 ^ k : Nat) : Int) ∨ ((2 ^ k : Nat) : Int) ≤ x) := by
    intro x
    simp [signedOverflow]
  have difference : r.toNat + b.toNat = a.toNat ∨ r.toNat + b.toNat = a.toNat + 2 * 2 ^ k := by
    have hr := r.isLt
    have hb := b.isLt
    rcases Nat.lt_or_ge (r.toNat + b.toNat) (2 ^ (k + 1)) with small | large
    · rw [Nat.mod_eq_of_lt small] at h
      exact .inl h
    · rw [Nat.mod_eq_sub_mod large, Nat.mod_eq_of_lt (by omega)] at h
      omega
  have ha := a.isLt
  have hb := b.isLt
  have hr := r.isLt
  rw [double] at ha hb hr
  rw [range, signed a, signed b, signed r, Bool.eq_iff_iff, Bool.xor_iff_ne, ne_eq, decide_eq_decide, decide_eq_true_eq]
  clear range signed double h
  generalize 2 ^ k = half at *
  split <;> split <;> split <;> omega

/-- What a CMP with every flag of its group written leaves in the flags. -/
theorem compared_of_flagsAfter {w : Nat} (hw : 0 < w) {s t : State} {a b : BitVec w}
    (h : FlagsAfter s t (some 0b0111#4) (subFlag a b false (aluSub a b false).res))
    (groups : s.params.extGroups = Config.defaultExtGroups) : Compared t.flags a b := by
  have difference : ((aluSub a b false).res.toNat + b.toNat) % 2 ^ w = a.toNat := aluSub_toNat a b false hw
  have written : ∀ f ∈ [FlagName.of, .sf, .zf, .cf], t.flags.get f = subFlag a b false (aluSub a b false).res f := by
    intro f hf
    have selects : ∀ f ∈ [FlagName.of, .sf, .zf, .cf], f ∈ selected Config.defaultExtGroups 0b0111#4 := by decide
    rw [h f, groups, if_pos (by simpa using selects f hf)]
  refine ⟨written .cf (by decide), ?_, ?_⟩
  · rw [show t.flags.zf = _ from written .zf (by decide)]
    exact decide_eq_decide.mpr (sub_eq_zero_iff difference)
  · rw [show t.flags.sf = _ from written .sf (by decide), show t.flags.of = _ from written .of (by decide),
      ← sign_xor_overflow hw difference]
    simp [subFlag]

/-- A condition and its opposite: `br` is the test and its negation (42_specops.md R366). -/
theorem brcond_pair (low : BitVec 2) {p : SpecOperands} {t : State} (c : BitVec 5) {code : BitVec 4} {v : Bool}
    (fields : c.extractLsb' 1 4 = code ∧ c.getLsbD 0 = false) (negates : t.params.cc0Negates = true)
    (test : condTest t code = .ok v) :
    (p.cc = c → ∃ u, exec (.brcond low p) t = .next u ∧ u.br = v ∧ ChangesOnly [.br] t u) ∧
      (p.cc = c ||| 1 → ∃ u, exec (.brcond low p) t = .next u ∧ u.br = !v ∧ ChangesOnly [.br] t u) := by
  have opposite : ∀ c : BitVec 5, (c ||| 1).extractLsb' 1 4 = c.extractLsb' 1 4 ∧ (c ||| 1).getLsbD 0 = true := by decide
  obtain ⟨same, odd⟩ := opposite c
  obtain ⟨rfl, even⟩ := fields
  constructor
  · intro hc
    obtain ⟨u, hu, br, rest⟩ := brcond_result low (o := p) (hc ▸ test)
    exact ⟨u, hu, by rw [br, hc, even, Bool.and_false, Bool.xor_false], rest⟩
  · intro hc
    obtain ⟨u, hu, br, rest⟩ := brcond_result low (o := p) (s := t) (b := v) (by rw [hc, same, test])
    exact ⟨u, hu, by rw [br, hc, odd, negates, Bool.and_true, Bool.xor_true], rest⟩

/-- At most is less or equal, in both readings of the operands. -/
theorem decide_le_toNat {w : Nat} (a b : BitVec w) :
    decide (a.toNat ≤ b.toNat) = (decide (a.toNat < b.toNat) || decide (a.toNat = b.toNat)) := by
  rw [← Bool.decide_or]
  exact decide_eq_decide.mpr Nat.le_iff_lt_or_eq

theorem decide_le_toInt {w : Nat} (a b : BitVec w) :
    decide (a.toInt ≤ b.toInt) = (decide (a.toInt < b.toInt) || decide (a.toNat = b.toNat)) := by
  have equal : a.toInt = b.toInt ↔ a.toNat = b.toNat := BitVec.toInt_inj.trans BitVec.toNat_inj.symm
  rw [← Bool.decide_or]
  exact decide_eq_decide.mpr (Int.le_iff_lt_or_eq.trans (or_congr_right equal))

/-- Settles O55. -/
theorem compareAndBranch : Obligations.CompareAndBranch := by
  intro t0 o low p s groups negates rx type0
  have admitted : ArithAdmitted t0 (some 0b0111#4) o s := by
    refine ⟨rx, type0, ?_⟩
    rintro ext ⟨⟩
    rw [groups]
    decide
  obtain ⟨t, ht, hf, hc⟩ := arithOp_compare (fun a b => aluSub a b false) admitted _ rfl
  rw [funext (aluSub_flag _ _ false (Size.bits_pos _))] at hf
  have compared := compared_of_flagsAfter (Size.bits_pos _) hf groups
  have negates : t.params.cc0Negates = true := by rw [hc.launch.params, negates]
  refine ⟨t, finish_next.mpr ht, hc, fun q hq => ?_⟩
  simp only [List.mem_cons, List.not_mem_nil, or_false] at hq
  rcases hq with rfl | rfl | rfl | rfl | rfl
  · exact brcond_pair low 0b10010#5 (code := 0b1001#4) (by decide) negates (congrArg Except.ok compared.below)
  · exact brcond_pair low 0b10100#5 (code := 0b1010#4) (by decide) negates (congrArg Except.ok compared.equal)
  · rw [decide_le_toNat, ← compared.below, ← compared.equal]
    exact brcond_pair low 0b10110#5 (code := 0b1011#4) (by decide) negates rfl
  · exact brcond_pair low 0b11100#5 (code := 0b1110#4) (by decide) negates (congrArg Except.ok compared.less)
  · rw [decide_le_toInt, ← compared.less, ← compared.equal]
    exact brcond_pair low 0b11110#5 (code := 0b1111#4) (by decide) negates rfl

/-! ### LDK, LIMM, FAULT -/

/-- Settles O56. -/
theorem loadConstant : Obligations.LoadConstant := by
  intro o s
  refine ⟨fun size => ⟨(wr s o.dest .four (imm17Value s o.imm17)).advance, imm17Value s o.imm17, ?_, fun signed => ?_,
    fun unsigned => ?_, wroteReg_wr s _ _ _, changesOnly_wr s _ _ _⟩, fun size => ?_⟩
  · show finish (refuseUnless _ _ >>= _) = _
    rw [size]
    rfl
  · rw [imm17Value, if_pos signed]
    exact BitVec.toInt_signExtend_of_le (by decide)
  · rw [imm17Value, if_neg (by simp [unsigned])]
    exact BitVec.toNat_setWidth_of_le (by decide)
  · have other : (intSize s.env o.dsz == .four) = false := beq_eq_false_iff_ne.mpr size
    show finish (refuseUnless _ _ >>= _) = _
    rw [other]
    rfl

/-- Settles O57. -/
theorem loadImmediate : Obligations.LoadImmediate := by
  intro w s top
  have word := limmWord_of_fields top
  refine ⟨opField w 17 4, opField w 21 15 ++ opField w 0 17, _, ?_, rfl, ?_, rfl, wroteReg_wr s _ _ _,
    changesOnly_wr s _ _ _⟩
  · rw [← decode_limmWord, word]
  · have low := (opField w 0 17).isLt
    rw [BitVec.toNat_append, ← Nat.shiftLeft_add_eq_or_of_lt low, Nat.shiftLeft_eq]
    rfl

/-- Settles O58. -/
theorem faultRaises : Obligations.FaultRaises :=
  fun _ _ _ => rfl

/-! ### The Ops without a meaning -/

/-- Settles O59. -/
theorem nameOnlyOpsRefused : Obligations.NameOnlyOpsRefused := by
  intro a fz d t0 st o x s
  simp only [List.forall_mem_cons, List.not_mem_nil, false_imp_iff, implies_true, and_true]
  exact ⟨⟨rfl, rfl, rfl, rfl⟩, ⟨rfl, rfl⟩, rfl, rfl, rfl, rfl, rfl, rfl, rfl, rfl, rfl, rfl, rfl, rfl, rfl, rfl, rfl, rfl,
    rfl, rfl, rfl, rfl⟩

end Sys2Proof.Proofs
end
